-- ==== Sys2Proof/Word.lean ====
section
/-! DEFINITION. The words the machine computes with (spec 00_scope.md R8, R11: registers and addresses are 32 bits,
arithmetic is modulo 2^32). -/

namespace Sys2Proof

/-- A register or an address (R8, R11, R21, R260). -/
abbrev Word := BitVec 32

/-- One byte of memory (R260). -/
abbrev Byte := BitVec 8

/-- A 64-bit counter, or the double-word of a bus access (R43, R266). -/
abbrev DWord := BitVec 64

/-- The number of a general register, 0 to 31 (R21). -/
abbrev RegIdx := BitVec 5

/-- A three-bit register field of a compressed instruction, naming `x8` to `x15` (R370). -/
abbrev CReg := BitVec 3

end Sys2Proof
end

