-- ==== Sys2Proof/Syntax.lean ====
section
/-! DEFINITION. The instructions of spec/opcode_table.json, one constructor per row, with every field of the encoding
that the row leaves open (30_encoding.md R365, R372). An immediate keeps the bits of the encoding, in the order of the
value it stands for; a compressed immediate whose low bits are always 0 is kept without them. -/

namespace Sys2Proof

/-- One constructor per row of the opcode table. -/
inductive Instr where
  -- RV32I (40_rv32i.md)
  /-- `lui` (R401). -/
  | lui (rd : RegIdx) (imm : BitVec 20)
  /-- `auipc` (R402). -/
  | auipc (rd : RegIdx) (imm : BitVec 20)
  /-- `jal` (R403). -/
  | jal (rd : RegIdx) (imm : BitVec 20)
  /-- `jalr` (R404). -/
  | jalr (rd rs1 : RegIdx) (imm : BitVec 12)
  /-- `beq` (R405). -/
  | beq (rs1 rs2 : RegIdx) (imm : BitVec 12)
  /-- `bne` (R406). -/
  | bne (rs1 rs2 : RegIdx) (imm : BitVec 12)
  /-- `blt` (R407). -/
  | blt (rs1 rs2 : RegIdx) (imm : BitVec 12)
  /-- `bge` (R408). -/
  | bge (rs1 rs2 : RegIdx) (imm : BitVec 12)
  /-- `bltu` (R409). -/
  | bltu (rs1 rs2 : RegIdx) (imm : BitVec 12)
  /-- `bgeu` (R410). -/
  | bgeu (rs1 rs2 : RegIdx) (imm : BitVec 12)
  /-- `lb` (R411). -/
  | lb (rd rs1 : RegIdx) (imm : BitVec 12)
  /-- `lh` (R412). -/
  | lh (rd rs1 : RegIdx) (imm : BitVec 12)
  /-- `lw` (R413). -/
  | lw (rd rs1 : RegIdx) (imm : BitVec 12)
  /-- `lbu` (R414). -/
  | lbu (rd rs1 : RegIdx) (imm : BitVec 12)
  /-- `lhu` (R415). -/
  | lhu (rd rs1 : RegIdx) (imm : BitVec 12)
  /-- `sb` (R416). -/
  | sb (rs2 rs1 : RegIdx) (imm : BitVec 12)
  /-- `sh` (R417). -/
  | sh (rs2 rs1 : RegIdx) (imm : BitVec 12)
  /-- `sw` (R418). -/
  | sw (rs2 rs1 : RegIdx) (imm : BitVec 12)
  /-- `addi` (R419). -/
  | addi (rd rs1 : RegIdx) (imm : BitVec 12)
  /-- `slti` (R420). -/
  | slti (rd rs1 : RegIdx) (imm : BitVec 12)
  /-- `sltiu` (R421). -/
  | sltiu (rd rs1 : RegIdx) (imm : BitVec 12)
  /-- `xori` (R422). -/
  | xori (rd rs1 : RegIdx) (imm : BitVec 12)
  /-- `ori` (R423). -/
  | ori (rd rs1 : RegIdx) (imm : BitVec 12)
  /-- `andi` (R424). -/
  | andi (rd rs1 : RegIdx) (imm : BitVec 12)
  /-- `slli` (R425). -/
  | slli (rd rs1 : RegIdx) (shamt : BitVec 5)
  /-- `srli` (R426). -/
  | srli (rd rs1 : RegIdx) (shamt : BitVec 5)
  /-- `srai` (R427). -/
  | srai (rd rs1 : RegIdx) (shamt : BitVec 5)
  /-- `add` (R428). -/
  | add (rd rs1 rs2 : RegIdx)
  /-- `sub` (R429). -/
  | sub (rd rs1 rs2 : RegIdx)
  /-- `sll` (R430). -/
  | sll (rd rs1 rs2 : RegIdx)
  /-- `slt` (R431). -/
  | slt (rd rs1 rs2 : RegIdx)
  /-- `sltu` (R432). -/
  | sltu (rd rs1 rs2 : RegIdx)
  /-- `xor` (R433). -/
  | xor (rd rs1 rs2 : RegIdx)
  /-- `srl` (R434). -/
  | srl (rd rs1 rs2 : RegIdx)
  /-- `sra` (R435). -/
  | sra (rd rs1 rs2 : RegIdx)
  /-- `or` (R436). -/
  | or (rd rs1 rs2 : RegIdx)
  /-- `and` (R437). -/
  | and (rd rs1 rs2 : RegIdx)
  -- System, Zicsr, Zifencei (40_rv32i.md R440 to R442, 44_zicsr_zifencei_system.md)
  /-- `fence` (R440). -/
  | fence (fm pred succ : BitVec 4) (rs1 rd : RegIdx)
  /-- `ecall` (R441). -/
  | ecall
  /-- `ebreak` (R442). -/
  | ebreak
  /-- `csrrw` (R532). -/
  | csrrw (rd : RegIdx) (csr : BitVec 12) (rs1 : RegIdx)
  /-- `csrrs` (R533). -/
  | csrrs (rd : RegIdx) (csr : BitVec 12) (rs1 : RegIdx)
  /-- `csrrc` (R534). -/
  | csrrc (rd : RegIdx) (csr : BitVec 12) (rs1 : RegIdx)
  /-- `csrrwi` (R535). -/
  | csrrwi (rd : RegIdx) (csr : BitVec 12) (uimm : BitVec 5)
  /-- `csrrsi` (R536). -/
  | csrrsi (rd : RegIdx) (csr : BitVec 12) (uimm : BitVec 5)
  /-- `csrrci` (R538). -/
  | csrrci (rd : RegIdx) (csr : BitVec 12) (uimm : BitVec 5)
  /-- `fence.i` (R537). -/
  | fenceI (imm : BitVec 12) (rs1 rd : RegIdx)
  /-- `mret` (R539). -/
  | mret
  /-- `wfi` (R540). -/
  | wfi
  -- M (41_m.md)
  /-- `mul` (R451). -/
  | mul (rd rs1 rs2 : RegIdx)
  /-- `mulh` (R452). -/
  | mulh (rd rs1 rs2 : RegIdx)
  /-- `mulhsu` (R453). -/
  | mulhsu (rd rs1 rs2 : RegIdx)
  /-- `mulhu` (R454). -/
  | mulhu (rd rs1 rs2 : RegIdx)
  /-- `div` (R455). -/
  | div (rd rs1 rs2 : RegIdx)
  /-- `divu` (R456). -/
  | divu (rd rs1 rs2 : RegIdx)
  /-- `rem` (R457). -/
  | rem (rd rs1 rs2 : RegIdx)
  /-- `remu` (R458). -/
  | remu (rd rs1 rs2 : RegIdx)
  -- A (42_a.md)
  /-- `lr.w` (R463). -/
  | lrW (rd rs1 : RegIdx) (aq rl : Bool)
  /-- `sc.w` (R464). -/
  | scW (rd rs1 rs2 : RegIdx) (aq rl : Bool)
  /-- `amoswap.w` (R465). -/
  | amoswapW (rd rs1 rs2 : RegIdx) (aq rl : Bool)
  /-- `amoadd.w` (R466). -/
  | amoaddW (rd rs1 rs2 : RegIdx) (aq rl : Bool)
  /-- `amoxor.w` (R467). -/
  | amoxorW (rd rs1 rs2 : RegIdx) (aq rl : Bool)
  /-- `amoand.w` (R468). -/
  | amoandW (rd rs1 rs2 : RegIdx) (aq rl : Bool)
  /-- `amoor.w` (R469). -/
  | amoorW (rd rs1 rs2 : RegIdx) (aq rl : Bool)
  /-- `amomin.w` (R470). -/
  | amominW (rd rs1 rs2 : RegIdx) (aq rl : Bool)
  /-- `amomax.w` (R471). -/
  | amomaxW (rd rs1 rs2 : RegIdx) (aq rl : Bool)
  /-- `amominu.w` (R472). -/
  | amominuW (rd rs1 rs2 : RegIdx) (aq rl : Bool)
  /-- `amomaxu.w` (R473). -/
  | amomaxuW (rd rs1 rs2 : RegIdx) (aq rl : Bool)
  -- Zba, Zbb, Zbc, Zbs (45)
  /-- `sh1add` (R551). -/
  | sh1add (rd rs1 rs2 : RegIdx)
  /-- `sh2add` (R552). -/
  | sh2add (rd rs1 rs2 : RegIdx)
  /-- `sh3add` (R553). -/
  | sh3add (rd rs1 rs2 : RegIdx)
  /-- `clz` (R554). -/
  | clz (rd rs1 : RegIdx)
  /-- `ctz` (R555). -/
  | ctz (rd rs1 : RegIdx)
  /-- `cpop` (R556). -/
  | cpop (rd rs1 : RegIdx)
  /-- `min` (R557). -/
  | min (rd rs1 rs2 : RegIdx)
  /-- `minu` (R558). -/
  | minu (rd rs1 rs2 : RegIdx)
  /-- `max` (R559). -/
  | max (rd rs1 rs2 : RegIdx)
  /-- `maxu` (R560). -/
  | maxu (rd rs1 rs2 : RegIdx)
  /-- `sext.b` (R561). -/
  | sextB (rd rs1 : RegIdx)
  /-- `sext.h` (R562). -/
  | sextH (rd rs1 : RegIdx)
  /-- `zext.h` (R563). -/
  | zextH (rd rs1 : RegIdx)
  /-- `andn` (R564). -/
  | andn (rd rs1 rs2 : RegIdx)
  /-- `orn` (R565). -/
  | orn (rd rs1 rs2 : RegIdx)
  /-- `xnor` (R566). -/
  | xnor (rd rs1 rs2 : RegIdx)
  /-- `rol` (R567). -/
  | rol (rd rs1 rs2 : RegIdx)
  /-- `ror` (R568). -/
  | ror (rd rs1 rs2 : RegIdx)
  /-- `rori` (R569). -/
  | rori (rd rs1 : RegIdx) (shamt : BitVec 5)
  /-- `rev8` (R570). -/
  | rev8 (rd rs1 : RegIdx)
  /-- `orc.b` (R571). -/
  | orcB (rd rs1 : RegIdx)
  /-- `clmul` (R572). -/
  | clmul (rd rs1 rs2 : RegIdx)
  /-- `clmulh` (R573). -/
  | clmulh (rd rs1 rs2 : RegIdx)
  /-- `clmulr` (R574). -/
  | clmulr (rd rs1 rs2 : RegIdx)
  /-- `bset` (R575). -/
  | bset (rd rs1 rs2 : RegIdx)
  /-- `bseti` (R576). -/
  | bseti (rd rs1 : RegIdx) (shamt : BitVec 5)
  /-- `bclr` (R577). -/
  | bclr (rd rs1 rs2 : RegIdx)
  /-- `bclri` (R578). -/
  | bclri (rd rs1 : RegIdx) (shamt : BitVec 5)
  /-- `binv` (R579). -/
  | binv (rd rs1 rs2 : RegIdx)
  /-- `binvi` (R580). -/
  | binvi (rd rs1 : RegIdx) (shamt : BitVec 5)
  /-- `bext` (R581). -/
  | bext (rd rs1 rs2 : RegIdx)
  /-- `bexti` (R582). -/
  | bexti (rd rs1 : RegIdx) (shamt : BitVec 5)
  -- Zbe, Zbf, Zbp, Zbr (46)
  /-- `bcompress` (R601). -/
  | bcompress (rd rs1 rs2 : RegIdx)
  /-- `bdecompress` (R602). -/
  | bdecompress (rd rs1 rs2 : RegIdx)
  /-- `pack` (R603). -/
  | pack (rd rs1 rs2 : RegIdx)
  /-- `packh` (R604). -/
  | packh (rd rs1 rs2 : RegIdx)
  /-- `bfp` (R605). -/
  | bfp (rd rs1 rs2 : RegIdx)
  /-- `packu` (R606). -/
  | packu (rd rs1 rs2 : RegIdx)
  /-- `grev` (R607). -/
  | grev (rd rs1 rs2 : RegIdx)
  /-- `grevi` (R608). -/
  | grevi (rd rs1 : RegIdx) (shamt : BitVec 5)
  /-- `gorc` (R609). -/
  | gorc (rd rs1 rs2 : RegIdx)
  /-- `gorci` (R610). -/
  | gorci (rd rs1 : RegIdx) (shamt : BitVec 5)
  /-- `shfl` (R611). -/
  | shfl (rd rs1 rs2 : RegIdx)
  /-- `shfli` (R612). -/
  | shfli (rd rs1 : RegIdx) (shamt : BitVec 4)
  /-- `unshfl` (R613). -/
  | unshfl (rd rs1 rs2 : RegIdx)
  /-- `unshfli` (R614). -/
  | unshfli (rd rs1 : RegIdx) (shamt : BitVec 4)
  /-- `xperm.n` (R615). -/
  | xpermN (rd rs1 rs2 : RegIdx)
  /-- `xperm.b` (R616). -/
  | xpermB (rd rs1 rs2 : RegIdx)
  /-- `xperm.h` (R617). -/
  | xpermH (rd rs1 rs2 : RegIdx)
  /-- `crc32.b` (R618). -/
  | crc32B (rd rs1 : RegIdx)
  /-- `crc32.h` (R619). -/
  | crc32H (rd rs1 : RegIdx)
  /-- `crc32.w` (R620). -/
  | crc32W (rd rs1 : RegIdx)
  /-- `crc32c.b` (R621). -/
  | crc32cB (rd rs1 : RegIdx)
  /-- `crc32c.h` (R622). -/
  | crc32cH (rd rs1 : RegIdx)
  /-- `crc32c.w` (R623). -/
  | crc32cW (rd rs1 : RegIdx)
  -- C (43_c.md)
  /-- `c.addi4spn` (R481). -/
  | cAddi4spn (rd : CReg) (imm : BitVec 8)
  /-- `c.lw` (R482). -/
  | cLw (rd rs1 : CReg) (imm : BitVec 5)
  /-- `c.sw` (R483). -/
  | cSw (rs2 rs1 : CReg) (imm : BitVec 5)
  /-- `c.nop` (R484). -/
  | cNop (imm : BitVec 6)
  /-- `c.addi` (R485). -/
  | cAddi (rd : RegIdx) (imm : BitVec 6)
  /-- `c.jal` (R486). -/
  | cJal (imm : BitVec 11)
  /-- `c.li` (R487). -/
  | cLi (rd : RegIdx) (imm : BitVec 6)
  /-- `c.addi16sp` (R488). -/
  | cAddi16sp (imm : BitVec 6)
  /-- `c.lui` (R489). -/
  | cLui (rd : RegIdx) (imm : BitVec 6)
  /-- `c.srli` (R490). -/
  | cSrli (rd : CReg) (shamt : BitVec 5)
  /-- `c.srai` (R491). -/
  | cSrai (rd : CReg) (shamt : BitVec 5)
  /-- `c.andi` (R492). -/
  | cAndi (rd : CReg) (imm : BitVec 6)
  /-- `c.sub` (R493). -/
  | cSub (rd rs2 : CReg)
  /-- `c.xor` (R494). -/
  | cXor (rd rs2 : CReg)
  /-- `c.or` (R495). -/
  | cOr (rd rs2 : CReg)
  /-- `c.and` (R496). -/
  | cAnd (rd rs2 : CReg)
  /-- `c.j` (R497). -/
  | cJ (imm : BitVec 11)
  /-- `c.beqz` (R498). -/
  | cBeqz (rs1 : CReg) (imm : BitVec 8)
  /-- `c.bnez` (R499). -/
  | cBnez (rs1 : CReg) (imm : BitVec 8)
  /-- `c.slli` (R500). -/
  | cSlli (rd : RegIdx) (shamt : BitVec 5)
  /-- `c.lwsp` (R501). -/
  | cLwsp (rd : RegIdx) (imm : BitVec 6)
  /-- `c.jr` (R502). -/
  | cJr (rs1 : RegIdx)
  /-- `c.mv` (R503). -/
  | cMv (rd rs2 : RegIdx)
  /-- `c.ebreak` (R504). -/
  | cEbreak
  /-- `c.jalr` (R505). -/
  | cJalr (rs1 : RegIdx)
  /-- `c.add` (R506). -/
  | cAdd (rd rs2 : RegIdx)
  /-- `c.swsp` (R507). -/
  | cSwsp (rs2 : RegIdx) (imm : BitVec 6)
deriving DecidableEq, Repr

end Sys2Proof
end

