-- ==== Sys2Proof/Decode.lean ====
section
/-! DEFINITION. From bytes to instructions and back (30_encoding.md). `decode` is total on any bytes and rejects by
name; `encode` writes the words of an instruction from the same tables. -/

namespace Sys2Proof

/-- Why bytes are not an instruction. -/
inductive Reject where
  /-- Fewer bytes than the instruction is long. -/
  | truncated
  /-- A 32-bit word that R365 does not list (R378; 48-bit and longer encodings too, R361). -/
  | illegalWord (w : BitVec 32)
  /-- A 16-bit parcel that R372 does not list (R375, R378). -/
  | illegalParcel (p : BitVec 16)
deriving DecidableEq, Repr

/-! ## 32-bit words -/

/-- The operation tables of R365: a key of function bits and the constructor it selects. -/
def lookup {κ α : Type} [DecidableEq κ] (k : κ) : List (κ × α) → Option α
  | [] => none
  | (k', a) :: rest => if k = k' then some a else lookup k rest

/-- Major opcode OP: `funct7`, `funct3` (R365). `zext.h` shares the key of `pack` and is told apart in `decodeOp`. -/
def opTable : List ((BitVec 7 × BitVec 3) × (RegIdx → RegIdx → RegIdx → Instr)) :=
  [
   ((0b0000000, 0b000), .add),
   ((0b0100000, 0b000), .sub),
   ((0b0000000, 0b001), .sll),
   ((0b0000000, 0b010), .slt),
   ((0b0000000, 0b011), .sltu),
   ((0b0000000, 0b100), .xor),
   ((0b0000000, 0b101), .srl),
   ((0b0100000, 0b101), .sra),
   ((0b0000000, 0b110), .or),
   ((0b0000000, 0b111), .and),
   ((0b0000001, 0b000), .mul),
   ((0b0000001, 0b001), .mulh),
   ((0b0000001, 0b010), .mulhsu),
   ((0b0000001, 0b011), .mulhu),
   ((0b0000001, 0b100), .div),
   ((0b0000001, 0b101), .divu),
   ((0b0000001, 0b110), .rem),
   ((0b0000001, 0b111), .remu),
   ((0b0010000, 0b010), .sh1add),
   ((0b0010000, 0b100), .sh2add),
   ((0b0010000, 0b110), .sh3add),
   ((0b0000101, 0b100), .min),
   ((0b0000101, 0b101), .minu),
   ((0b0000101, 0b110), .max)] ++
  [
   ((0b0000101, 0b111), .maxu),
   ((0b0100000, 0b111), .andn),
   ((0b0100000, 0b110), .orn),
   ((0b0100000, 0b100), .xnor),
   ((0b0110000, 0b001), .rol),
   ((0b0110000, 0b101), .ror),
   ((0b0000101, 0b001), .clmul),
   ((0b0000101, 0b011), .clmulh),
   ((0b0000101, 0b010), .clmulr),
   ((0b0010100, 0b001), .bset),
   ((0b0100100, 0b001), .bclr),
   ((0b0110100, 0b001), .binv),
   ((0b0100100, 0b101), .bext),
   ((0b0000100, 0b110), .bcompress),
   ((0b0100100, 0b110), .bdecompress),
   ((0b0000100, 0b100), .pack),
   ((0b0000100, 0b111), .packh),
   ((0b0100100, 0b111), .bfp),
   ((0b0100100, 0b100), .packu),
   ((0b0110100, 0b101), .grev),
   ((0b0010100, 0b101), .gorc),
   ((0b0000100, 0b001), .shfl),
   ((0b0000100, 0b101), .unshfl),
   ((0b0010100, 0b010), .xpermN),
   ((0b0010100, 0b100), .xpermB),
   ((0b0010100, 0b110), .xpermH)]

/-- Major opcode OP-IMM, shift amounts: `funct7`, `funct3`. `rev8` and `orc.b` share the keys of `grevi` and `gorci`. -/
def shiftTable : List ((BitVec 7 × BitVec 3) × (RegIdx → RegIdx → BitVec 5 → Instr)) :=
  [
   ((0b0000000, 0b001), .slli),
   ((0b0000000, 0b101), .srli),
   ((0b0100000, 0b101), .srai),
   ((0b0110000, 0b101), .rori),
   ((0b0010100, 0b001), .bseti),
   ((0b0100100, 0b001), .bclri),
   ((0b0110100, 0b001), .binvi),
   ((0b0100100, 0b101), .bexti),
   ((0b0110100, 0b101), .grevi),
   ((0b0010100, 0b101), .gorci)]

/-- Major opcode OP-IMM, `funct3` = 001 and `funct7` = 0110000: the unary forms, by `inst[24:20]`. -/
def unaryTable : List (BitVec 5 × (RegIdx → RegIdx → Instr)) :=
  [
   (0b00000, .clz),
   (0b00001, .ctz),
   (0b00010, .cpop),
   (0b00100, .sextB),
   (0b00101, .sextH),
   (0b10000, .crc32B),
   (0b10001, .crc32H),
   (0b10010, .crc32W),
   (0b11000, .crc32cB),
   (0b11001, .crc32cH),
   (0b11010, .crc32cW)]

/-- Major opcode AMO, `funct3` = 010: by `funct5`; `lr.w` is apart. -/
def amoTable : List (BitVec 5 × (RegIdx → RegIdx → RegIdx → Bool → Bool → Instr)) :=
  [
   (0b00011, .scW),
   (0b00001, .amoswapW),
   (0b00000, .amoaddW),
   (0b00100, .amoxorW),
   (0b01100, .amoandW),
   (0b01000, .amoorW),
   (0b10000, .amominW),
   (0b10100, .amomaxW),
   (0b11000, .amominuW),
   (0b11100, .amomaxuW)]

/-- Major opcode BRANCH, by `funct3`. -/
def branchTable : List (BitVec 3 × (RegIdx → RegIdx → BitVec 12 → Instr)) :=
  [(0b000, .beq), (0b001, .bne), (0b100, .blt), (0b101, .bge), (0b110, .bltu), (0b111, .bgeu)]

/-- Major opcode LOAD, by `funct3`. -/
def loadTable : List (BitVec 3 × (RegIdx → RegIdx → BitVec 12 → Instr)) :=
  [(0b000, .lb), (0b001, .lh), (0b010, .lw), (0b100, .lbu), (0b101, .lhu)]

/-- Major opcode STORE, by `funct3`. -/
def storeTable : List (BitVec 3 × (RegIdx → RegIdx → BitVec 12 → Instr)) :=
  [(0b000, .sb), (0b001, .sh), (0b010, .sw)]

/-- Major opcode OP-IMM, 12-bit immediates, by `funct3`. -/
def immTable : List (BitVec 3 × (RegIdx → RegIdx → BitVec 12 → Instr)) :=
  [(0b000, .addi), (0b010, .slti), (0b011, .sltiu), (0b100, .xori), (0b110, .ori), (0b111, .andi)]

/-- Major opcode SYSTEM, CSR register forms, by `funct3`. -/
def csrTable : List (BitVec 3 × (RegIdx → BitVec 12 → RegIdx → Instr)) :=
  [(0b001, .csrrw), (0b010, .csrrs), (0b011, .csrrc)]

/-- Major opcode SYSTEM, CSR immediate forms, by `funct3`. -/
def csrImmTable : List (BitVec 3 × (RegIdx → BitVec 12 → BitVec 5 → Instr)) :=
  [(0b101, .csrrwi), (0b110, .csrrsi), (0b111, .csrrci)]

/-- Major opcode OP (R365, R366). -/
def decodeOp (f7 : BitVec 7) (rs2 rs1 : BitVec 5) (f3 : BitVec 3) (rd : BitVec 5) : Option Instr :=
  if f7 = 0b0000100 ∧ f3 = 0b100 ∧ rs2 = 0 then some (.zextH rd rs1)
  else (lookup (f7, f3) opTable).map fun c => c rd rs1 rs2

/-- Major opcode OP-IMM (R365, R366). -/
def decodeOpImm (f7 : BitVec 7) (rs2 rs1 : BitVec 5) (f3 : BitVec 3) (rd : BitVec 5) : Option Instr :=
  if f3 = 0b001 ∨ f3 = 0b101 then
    if f7 = 0b0110000 ∧ f3 = 0b001 then (lookup rs2 unaryTable).map fun c => c rd rs1
    else if f7 = 0b0000100 then
      if rs2.extractLsb' 4 1 = 0 then
        some (if f3 = 0b001 then .shfli rd rs1 (rs2.extractLsb' 0 4) else .unshfli rd rs1 (rs2.extractLsb' 0 4))
      else none
    else if f7 = 0b0110100 ∧ f3 = 0b101 ∧ rs2 = 0b11000 then some (.rev8 rd rs1)
    else if f7 = 0b0010100 ∧ f3 = 0b101 ∧ rs2 = 0b00111 then some (.orcB rd rs1)
    else (lookup (f7, f3) shiftTable).map fun c => c rd rs1 rs2
  else (lookup f3 immTable).map fun c => c rd rs1 (f7 ++ rs2)

/-- Major opcode SYSTEM (R365, R377(d)). -/
def decodeSystem (f7 : BitVec 7) (rs2 rs1 : BitVec 5) (f3 : BitVec 3) (rd : BitVec 5) : Option Instr :=
  if f3 = 0 then
    if rs1 = 0 ∧ rd = 0 then
      if f7 = 0b0000000 ∧ rs2 = 0b00000 then some .ecall
      else if f7 = 0b0000000 ∧ rs2 = 0b00001 then some .ebreak
      else if f7 = 0b0011000 ∧ rs2 = 0b00010 then some .mret
      else if f7 = 0b0001000 ∧ rs2 = 0b00101 then some .wfi
      else none
    else none
  else
    match lookup f3 csrTable with
    | some c => some (c rd (f7 ++ rs2) rs1)
    | none => (lookup f3 csrImmTable).map fun c => c rd (f7 ++ rs2) rs1

/-- Major opcode MISC-MEM: every word is a fence, whatever its other fields (R376). -/
def decodeMiscMem (f7 : BitVec 7) (rs2 rs1 : BitVec 5) (f3 : BitVec 3) (rd : BitVec 5) : Option Instr :=
  if f3 = 0b000 then
    some (.fence (f7.extractLsb' 3 4) (f7.extractLsb' 0 3 ++ rs2.extractLsb' 4 1) (rs2.extractLsb' 0 4) rs1 rd)
  else if f3 = 0b001 then some (.fenceI (f7 ++ rs2) rs1 rd)
  else none

/-- Major opcode AMO (R365, R377(b)). -/
def decodeAmo (f7 : BitVec 7) (rs2 rs1 : BitVec 5) (f3 : BitVec 3) (rd : BitVec 5) : Option Instr :=
  let f5 := f7.extractLsb' 2 5
  let aq := f7.extractLsb' 1 1 == 1#1
  let rl := f7.extractLsb' 0 1 == 1#1
  if f3 = 0b010 then
    if f5 = 0b00010 then (if rs2 = 0 then some (.lrW rd rs1 aq rl) else none)
    else (lookup f5 amoTable).map fun c => c rd rs1 rs2 aq rl
  else none

/-- The B immediate, bits 12 to 1, from its two fields (R363). -/
def immB (f7 : BitVec 7) (rd : BitVec 5) : BitVec 12 :=
  f7.extractLsb' 6 1 ++ rd.extractLsb' 0 1 ++ f7.extractLsb' 0 6 ++ rd.extractLsb' 1 4

/-- The U immediate, bits 31 to 12, from the fields it covers (R363). -/
def immU (f7 : BitVec 7) (rs2 rs1 : BitVec 5) (f3 : BitVec 3) : BitVec 20 := f7 ++ rs2 ++ rs1 ++ f3

/-- The J immediate, bits 20 to 1, from the fields it covers (R363). -/
def immJ (f7 : BitVec 7) (rs2 rs1 : BitVec 5) (f3 : BitVec 3) : BitVec 20 :=
  f7.extractLsb' 6 1 ++ rs1 ++ f3 ++ rs2.extractLsb' 0 1 ++ f7.extractLsb' 0 6 ++ rs2.extractLsb' 1 4

/-- A 32-bit word by its fields (R362, R364). -/
def decodeFields (f7 : BitVec 7) (rs2 rs1 : BitVec 5) (f3 : BitVec 3) (rd : BitVec 5) (op : BitVec 7) :
    Option Instr :=
  if op = 0b0110011 then decodeOp f7 rs2 rs1 f3 rd
  else if op = 0b0010011 then decodeOpImm f7 rs2 rs1 f3 rd
  else if op = 0b0000011 then (lookup f3 loadTable).map fun c => c rd rs1 (f7 ++ rs2)
  else if op = 0b0100011 then (lookup f3 storeTable).map fun c => c rs2 rs1 (f7 ++ rd)
  else if op = 0b1100011 then (lookup f3 branchTable).map fun c => c rs1 rs2 (immB f7 rd)
  else if op = 0b0110111 then some (.lui rd (immU f7 rs2 rs1 f3))
  else if op = 0b0010111 then some (.auipc rd (immU f7 rs2 rs1 f3))
  else if op = 0b1101111 then some (.jal rd (immJ f7 rs2 rs1 f3))
  else if op = 0b1100111 then (if f3 = 0 then some (.jalr rd rs1 (f7 ++ rs2)) else none)
  else if op = 0b1110011 then decodeSystem f7 rs2 rs1 f3 rd
  else if op = 0b0001111 then decodeMiscMem f7 rs2 rs1 f3 rd
  else if op = 0b0101111 then decodeAmo f7 rs2 rs1 f3 rd
  else none

/-- A 32-bit word (R362). -/
def decode32 (w : BitVec 32) : Option Instr :=
  decodeFields (w.extractLsb' 25 7) (w.extractLsb' 20 5) (w.extractLsb' 15 5) (w.extractLsb' 12 3)
    (w.extractLsb' 7 5) (w.extractLsb' 0 7)

/-! ## 16-bit parcels

A parcel is split as bits 15:13, 12, 11:7, 6:2 and 1:0 (R370). -/

/-- Quadrant 0 (R372, R375). -/
def decodeQ0 (f3 : BitVec 3) (b : BitVec 1) (c d : BitVec 5) : Option Instr :=
  if f3 = 0b000 then
    let nz : BitVec 8 := c.extractLsb' 0 4 ++ b ++ c.extractLsb' 4 1 ++ d.extractLsb' 3 1 ++ d.extractLsb' 4 1
    if nz = 0 then none else some (.cAddi4spn (d.extractLsb' 0 3) nz)
  else
    let imm : BitVec 5 := d.extractLsb' 3 1 ++ b ++ c.extractLsb' 3 2 ++ d.extractLsb' 4 1
    if f3 = 0b010 then some (.cLw (d.extractLsb' 0 3) (c.extractLsb' 0 3) imm)
    else if f3 = 0b110 then some (.cSw (d.extractLsb' 0 3) (c.extractLsb' 0 3) imm)
    else none

/-- The target field of `c.j` and `c.jal`, bits 11 to 1 (R371). -/
def immCJ (b : BitVec 1) (c d : BitVec 5) : BitVec 11 :=
  b ++ c.extractLsb' 1 1 ++ c.extractLsb' 2 2 ++ d.extractLsb' 4 1 ++ c.extractLsb' 0 1 ++ d.extractLsb' 0 1 ++
    c.extractLsb' 4 1 ++ d.extractLsb' 1 3

/-- The offset of `c.beqz` and `c.bnez`, bits 8 to 1 (R371). -/
def immCB (b : BitVec 1) (c d : BitVec 5) : BitVec 8 :=
  b ++ d.extractLsb' 3 2 ++ d.extractLsb' 0 1 ++ c.extractLsb' 3 2 ++ d.extractLsb' 1 2

/-- Quadrant 1, `funct3` = 100: the register-register and shift forms (R372, R375). -/
def decodeQ1Alu (b : BitVec 1) (c d : BitVec 5) : Option Instr :=
  let rd := c.extractLsb' 0 3
  let rs2 := d.extractLsb' 0 3
  if c.extractLsb' 3 2 = 0b00 then (if b = 0 then some (.cSrli rd d) else none)
  else if c.extractLsb' 3 2 = 0b01 then (if b = 0 then some (.cSrai rd d) else none)
  else if c.extractLsb' 3 2 = 0b10 then some (.cAndi rd (b ++ d))
  else if b = 0 then
    if d.extractLsb' 3 2 = 0b00 then some (.cSub rd rs2)
    else if d.extractLsb' 3 2 = 0b01 then some (.cXor rd rs2)
    else if d.extractLsb' 3 2 = 0b10 then some (.cOr rd rs2)
    else some (.cAnd rd rs2)
  else none

/-- Quadrant 1 (R372, R375). -/
def decodeQ1 (f3 : BitVec 3) (b : BitVec 1) (c d : BitVec 5) : Option Instr :=
  if f3 = 0b000 then (if c = 0 then some (.cNop (b ++ d)) else some (.cAddi c (b ++ d)))
  else if f3 = 0b001 then some (.cJal (immCJ b c d))
  else if f3 = 0b010 then some (.cLi c (b ++ d))
  else if f3 = 0b011 then
    if c = 2 then
      let nz : BitVec 6 := b ++ d.extractLsb' 1 2 ++ d.extractLsb' 3 1 ++ d.extractLsb' 0 1 ++ d.extractLsb' 4 1
      if nz = 0 then none else some (.cAddi16sp nz)
    else if b ++ d = 0 then none else some (.cLui c (b ++ d))
  else if f3 = 0b100 then decodeQ1Alu b c d
  else if f3 = 0b101 then some (.cJ (immCJ b c d))
  else if f3 = 0b110 then some (.cBeqz (c.extractLsb' 0 3) (immCB b c d))
  else some (.cBnez (c.extractLsb' 0 3) (immCB b c d))

/-- Quadrant 2 (R372, R375). -/
def decodeQ2 (f3 : BitVec 3) (b : BitVec 1) (c d : BitVec 5) : Option Instr :=
  if f3 = 0b000 then (if b = 0 then some (.cSlli c d) else none)
  else if f3 = 0b010 then
    if c = 0 then none else some (.cLwsp c (d.extractLsb' 0 2 ++ b ++ d.extractLsb' 2 3))
  else if f3 = 0b100 then
    if b = 0 then
      if d = 0 then (if c = 0 then none else some (.cJr c)) else some (.cMv c d)
    else if d = 0 then (if c = 0 then some .cEbreak else some (.cJalr c))
    else some (.cAdd c d)
  else if f3 = 0b110 then some (.cSwsp d (c.extractLsb' 0 2 ++ b ++ c.extractLsb' 2 3))
  else none

/-- A parcel by its fields; `op` = 11 is no 16-bit instruction (R361, R370). -/
def decodeCFields (f3 : BitVec 3) (b : BitVec 1) (c d : BitVec 5) (op : BitVec 2) : Option Instr :=
  if op = 0b00 then decodeQ0 f3 b c d
  else if op = 0b01 then decodeQ1 f3 b c d
  else if op = 0b10 then decodeQ2 f3 b c d
  else none

/-- A 16-bit parcel (R370, R372). -/
def decode16 (p : BitVec 16) : Option Instr :=
  decodeCFields (p.extractLsb' 13 3) (p.extractLsb' 12 1) (p.extractLsb' 7 5) (p.extractLsb' 2 5) (p.extractLsb' 0 2)

/-! ## Bytes -/

/-- Two bytes as a parcel, the lower address first (20_memory.md R261). -/
def parcelOf (b0 b1 : Byte) : BitVec 16 := b1 ++ b0

/-- Whether a parcel is a whole 16-bit instruction; else it starts a 32-bit word (R361). -/
def isCompressed (p : BitVec 16) : Bool := p.extractLsb' 0 2 != 0b11#2

/-- The instruction that a list of bytes starts with, and the bytes after it (R261, R361). -/
def decode : List Byte → Except Reject (Instr × List Byte)
  | b0 :: b1 :: rest =>
    if isCompressed (parcelOf b0 b1) then
      match decode16 (parcelOf b0 b1) with
      | some i => .ok (i, rest)
      | none => .error (.illegalParcel (parcelOf b0 b1))
    else
      match rest with
      | b2 :: b3 :: rest' =>
        match decode32 (parcelOf b2 b3 ++ parcelOf b0 b1) with
        | some i => .ok (i, rest')
        | none => .error (.illegalWord (parcelOf b2 b3 ++ parcelOf b0 b1))
      | _ => .error .truncated
  | _ => .error .truncated

/-! ## The encoder -/

/-- A 32-bit word from its fields (R362). -/
def word32 (f7 : BitVec 7) (rs2 rs1 : BitVec 5) (f3 : BitVec 3) (rd : BitVec 5) (op : BitVec 7) : BitVec 32 :=
  f7 ++ rs2 ++ rs1 ++ f3 ++ rd ++ op

/-- I format (R362). -/
def wordI (imm : BitVec 12) (rs1 : BitVec 5) (f3 : BitVec 3) (rd : BitVec 5) (op : BitVec 7) : BitVec 32 :=
  word32 (imm.extractLsb' 5 7) (imm.extractLsb' 0 5) rs1 f3 rd op

/-- S format (R362). -/
def wordS (imm : BitVec 12) (rs2 rs1 : BitVec 5) (f3 : BitVec 3) (op : BitVec 7) : BitVec 32 :=
  word32 (imm.extractLsb' 5 7) rs2 rs1 f3 (imm.extractLsb' 0 5) op

/-- B format; `imm` is bits 12 to 1 (R362). -/
def wordB (imm : BitVec 12) (rs2 rs1 : BitVec 5) (f3 : BitVec 3) (op : BitVec 7) : BitVec 32 :=
  word32 (imm.extractLsb' 11 1 ++ imm.extractLsb' 4 6) rs2 rs1 f3 (imm.extractLsb' 0 4 ++ imm.extractLsb' 10 1) op

/-- U format (R362). -/
def wordU (imm : BitVec 20) (rd : BitVec 5) (op : BitVec 7) : BitVec 32 :=
  word32 (imm.extractLsb' 13 7) (imm.extractLsb' 8 5) (imm.extractLsb' 3 5) (imm.extractLsb' 0 3) rd op

/-- J format; `imm` is bits 20 to 1 (R362). -/
def wordJ (imm : BitVec 20) (rd : BitVec 5) (op : BitVec 7) : BitVec 32 :=
  word32 (imm.extractLsb' 19 1 ++ imm.extractLsb' 4 6) (imm.extractLsb' 0 4 ++ imm.extractLsb' 10 1)
    (imm.extractLsb' 14 5) (imm.extractLsb' 11 3) rd op

/-- R-atomic format (R363). -/
def wordA (f5 : BitVec 5) (aq rl : Bool) (rs2 rs1 rd : BitVec 5) : BitVec 32 :=
  word32 (f5 ++ BitVec.ofBool aq ++ BitVec.ofBool rl) rs2 rs1 0b010 rd 0b0101111

/-- A 16-bit parcel from its fields (R370). -/
def parcel16 (f3 : BitVec 3) (b : BitVec 1) (c d : BitVec 5) (op : BitVec 2) : BitVec 16 := f3 ++ b ++ c ++ d ++ op

/-- `c.lw` and `c.sw` (R370, R371). -/
def parcelL (f3 : BitVec 3) (imm : BitVec 5) (rs1 r : BitVec 3) : BitVec 16 :=
  parcel16 f3 (imm.extractLsb' 3 1) (imm.extractLsb' 1 2 ++ rs1) (imm.extractLsb' 0 1 ++ imm.extractLsb' 4 1 ++ r) 0b00

/-- CI format (R370). -/
def parcelI (f3 : BitVec 3) (imm : BitVec 6) (rd : BitVec 5) (op : BitVec 2) : BitVec 16 :=
  parcel16 f3 (imm.extractLsb' 5 1) rd (imm.extractLsb' 0 5) op

/-- CJ format; `imm` is bits 11 to 1 (R371). -/
def parcelJ (f3 : BitVec 3) (imm : BitVec 11) : BitVec 16 :=
  parcel16 f3 (imm.extractLsb' 10 1)
    (imm.extractLsb' 3 1 ++ imm.extractLsb' 7 2 ++ imm.extractLsb' 9 1 ++ imm.extractLsb' 5 1)
    (imm.extractLsb' 6 1 ++ imm.extractLsb' 0 3 ++ imm.extractLsb' 4 1) 0b01

/-- CB format, branches; `imm` is bits 8 to 1 (R371). -/
def parcelB (f3 : BitVec 3) (imm : BitVec 8) (rs1 : BitVec 3) : BitVec 16 :=
  parcel16 f3 (imm.extractLsb' 7 1) (imm.extractLsb' 2 2 ++ rs1)
    (imm.extractLsb' 5 2 ++ imm.extractLsb' 0 2 ++ imm.extractLsb' 4 1) 0b01

/-- CA format (R370). -/
def parcelA (f2 : BitVec 2) (rd rs2 : BitVec 3) : BitVec 16 := parcel16 0b100 0 (0b11#2 ++ rd) (f2 ++ rs2) 0b01

/-- The words of an instruction: 16 bits for a compressed one, else 32 (R360). -/
inductive Code where
  | half (p : BitVec 16)
  | word (w : BitVec 32)
deriving DecidableEq, Repr

/-- The words of an instruction (R365, R372). Total; the round trip with `decode` is for well-formed instructions. -/
def encode : Instr → Code
  | .lui rd imm => .word (wordU imm rd 0b0110111)
  | .auipc rd imm => .word (wordU imm rd 0b0010111)
  | .jal rd imm => .word (wordJ imm rd 0b1101111)
  | .jalr rd rs1 imm => .word (wordI imm rs1 0b000 rd 0b1100111)
  | .beq rs1 rs2 imm => .word (wordB imm rs2 rs1 0b000 0b1100011)
  | .bne rs1 rs2 imm => .word (wordB imm rs2 rs1 0b001 0b1100011)
  | .blt rs1 rs2 imm => .word (wordB imm rs2 rs1 0b100 0b1100011)
  | .bge rs1 rs2 imm => .word (wordB imm rs2 rs1 0b101 0b1100011)
  | .bltu rs1 rs2 imm => .word (wordB imm rs2 rs1 0b110 0b1100011)
  | .bgeu rs1 rs2 imm => .word (wordB imm rs2 rs1 0b111 0b1100011)
  | .lb rd rs1 imm => .word (wordI imm rs1 0b000 rd 0b0000011)
  | .lh rd rs1 imm => .word (wordI imm rs1 0b001 rd 0b0000011)
  | .lw rd rs1 imm => .word (wordI imm rs1 0b010 rd 0b0000011)
  | .lbu rd rs1 imm => .word (wordI imm rs1 0b100 rd 0b0000011)
  | .lhu rd rs1 imm => .word (wordI imm rs1 0b101 rd 0b0000011)
  | .sb rs2 rs1 imm => .word (wordS imm rs2 rs1 0b000 0b0100011)
  | .sh rs2 rs1 imm => .word (wordS imm rs2 rs1 0b001 0b0100011)
  | .sw rs2 rs1 imm => .word (wordS imm rs2 rs1 0b010 0b0100011)
  | .addi rd rs1 imm => .word (wordI imm rs1 0b000 rd 0b0010011)
  | .slti rd rs1 imm => .word (wordI imm rs1 0b010 rd 0b0010011)
  | .sltiu rd rs1 imm => .word (wordI imm rs1 0b011 rd 0b0010011)
  | .xori rd rs1 imm => .word (wordI imm rs1 0b100 rd 0b0010011)
  | .ori rd rs1 imm => .word (wordI imm rs1 0b110 rd 0b0010011)
  | .andi rd rs1 imm => .word (wordI imm rs1 0b111 rd 0b0010011)
  | .slli rd rs1 shamt => .word (word32 0b0000000 shamt rs1 0b001 rd 0b0010011)
  | .srli rd rs1 shamt => .word (word32 0b0000000 shamt rs1 0b101 rd 0b0010011)
  | .srai rd rs1 shamt => .word (word32 0b0100000 shamt rs1 0b101 rd 0b0010011)
  | .add rd rs1 rs2 => .word (word32 0b0000000 rs2 rs1 0b000 rd 0b0110011)
  | .sub rd rs1 rs2 => .word (word32 0b0100000 rs2 rs1 0b000 rd 0b0110011)
  | .sll rd rs1 rs2 => .word (word32 0b0000000 rs2 rs1 0b001 rd 0b0110011)
  | .slt rd rs1 rs2 => .word (word32 0b0000000 rs2 rs1 0b010 rd 0b0110011)
  | .sltu rd rs1 rs2 => .word (word32 0b0000000 rs2 rs1 0b011 rd 0b0110011)
  | .xor rd rs1 rs2 => .word (word32 0b0000000 rs2 rs1 0b100 rd 0b0110011)
  | .srl rd rs1 rs2 => .word (word32 0b0000000 rs2 rs1 0b101 rd 0b0110011)
  | .sra rd rs1 rs2 => .word (word32 0b0100000 rs2 rs1 0b101 rd 0b0110011)
  | .or rd rs1 rs2 => .word (word32 0b0000000 rs2 rs1 0b110 rd 0b0110011)
  | .and rd rs1 rs2 => .word (word32 0b0000000 rs2 rs1 0b111 rd 0b0110011)
  | .fence fm pred succ rs1 rd => .word (word32 (fm ++ pred.extractLsb' 1 3) (pred.extractLsb' 0 1 ++ succ) rs1 0 rd 0b0001111)
  | .ecall => .word (word32 0b0000000 0b00000 0 0 0 0b1110011)
  | .ebreak => .word (word32 0b0000000 0b00001 0 0 0 0b1110011)
  | .mul rd rs1 rs2 => .word (word32 0b0000001 rs2 rs1 0b000 rd 0b0110011)
  | .mulh rd rs1 rs2 => .word (word32 0b0000001 rs2 rs1 0b001 rd 0b0110011)
  | .mulhsu rd rs1 rs2 => .word (word32 0b0000001 rs2 rs1 0b010 rd 0b0110011)
  | .mulhu rd rs1 rs2 => .word (word32 0b0000001 rs2 rs1 0b011 rd 0b0110011)
  | .div rd rs1 rs2 => .word (word32 0b0000001 rs2 rs1 0b100 rd 0b0110011)
  | .divu rd rs1 rs2 => .word (word32 0b0000001 rs2 rs1 0b101 rd 0b0110011)
  | .rem rd rs1 rs2 => .word (word32 0b0000001 rs2 rs1 0b110 rd 0b0110011)
  | .remu rd rs1 rs2 => .word (word32 0b0000001 rs2 rs1 0b111 rd 0b0110011)
  | .lrW rd rs1 aq rl => .word (wordA 0b00010 aq rl 0 rs1 rd)
  | .scW rd rs1 rs2 aq rl => .word (wordA 0b00011 aq rl rs2 rs1 rd)
  | .amoswapW rd rs1 rs2 aq rl => .word (wordA 0b00001 aq rl rs2 rs1 rd)
  | .amoaddW rd rs1 rs2 aq rl => .word (wordA 0b00000 aq rl rs2 rs1 rd)
  | .amoxorW rd rs1 rs2 aq rl => .word (wordA 0b00100 aq rl rs2 rs1 rd)
  | .amoandW rd rs1 rs2 aq rl => .word (wordA 0b01100 aq rl rs2 rs1 rd)
  | .amoorW rd rs1 rs2 aq rl => .word (wordA 0b01000 aq rl rs2 rs1 rd)
  | .amominW rd rs1 rs2 aq rl => .word (wordA 0b10000 aq rl rs2 rs1 rd)
  | .amomaxW rd rs1 rs2 aq rl => .word (wordA 0b10100 aq rl rs2 rs1 rd)
  | .amominuW rd rs1 rs2 aq rl => .word (wordA 0b11000 aq rl rs2 rs1 rd)
  | .amomaxuW rd rs1 rs2 aq rl => .word (wordA 0b11100 aq rl rs2 rs1 rd)
  | .csrrw rd csr rs1 => .word (wordI csr rs1 0b001 rd 0b1110011)
  | .csrrs rd csr rs1 => .word (wordI csr rs1 0b010 rd 0b1110011)
  | .csrrc rd csr rs1 => .word (wordI csr rs1 0b011 rd 0b1110011)
  | .csrrwi rd csr uimm => .word (wordI csr uimm 0b101 rd 0b1110011)
  | .csrrsi rd csr uimm => .word (wordI csr uimm 0b110 rd 0b1110011)
  | .csrrci rd csr uimm => .word (wordI csr uimm 0b111 rd 0b1110011)
  | .fenceI imm rs1 rd => .word (wordI imm rs1 0b001 rd 0b0001111)
  | .mret => .word (word32 0b0011000 0b00010 0 0 0 0b1110011)
  | .wfi => .word (word32 0b0001000 0b00101 0 0 0 0b1110011)
  | .sh1add rd rs1 rs2 => .word (word32 0b0010000 rs2 rs1 0b010 rd 0b0110011)
  | .sh2add rd rs1 rs2 => .word (word32 0b0010000 rs2 rs1 0b100 rd 0b0110011)
  | .sh3add rd rs1 rs2 => .word (word32 0b0010000 rs2 rs1 0b110 rd 0b0110011)
  | .clz rd rs1 => .word (word32 0b0110000 0b00000 rs1 0b001 rd 0b0010011)
  | .ctz rd rs1 => .word (word32 0b0110000 0b00001 rs1 0b001 rd 0b0010011)
  | .cpop rd rs1 => .word (word32 0b0110000 0b00010 rs1 0b001 rd 0b0010011)
  | .min rd rs1 rs2 => .word (word32 0b0000101 rs2 rs1 0b100 rd 0b0110011)
  | .minu rd rs1 rs2 => .word (word32 0b0000101 rs2 rs1 0b101 rd 0b0110011)
  | .max rd rs1 rs2 => .word (word32 0b0000101 rs2 rs1 0b110 rd 0b0110011)
  | .maxu rd rs1 rs2 => .word (word32 0b0000101 rs2 rs1 0b111 rd 0b0110011)
  | .sextB rd rs1 => .word (word32 0b0110000 0b00100 rs1 0b001 rd 0b0010011)
  | .sextH rd rs1 => .word (word32 0b0110000 0b00101 rs1 0b001 rd 0b0010011)
  | .zextH rd rs1 => .word (word32 0b0000100 0b00000 rs1 0b100 rd 0b0110011)
  | .andn rd rs1 rs2 => .word (word32 0b0100000 rs2 rs1 0b111 rd 0b0110011)
  | .orn rd rs1 rs2 => .word (word32 0b0100000 rs2 rs1 0b110 rd 0b0110011)
  | .xnor rd rs1 rs2 => .word (word32 0b0100000 rs2 rs1 0b100 rd 0b0110011)
  | .rol rd rs1 rs2 => .word (word32 0b0110000 rs2 rs1 0b001 rd 0b0110011)
  | .ror rd rs1 rs2 => .word (word32 0b0110000 rs2 rs1 0b101 rd 0b0110011)
  | .rori rd rs1 shamt => .word (word32 0b0110000 shamt rs1 0b101 rd 0b0010011)
  | .rev8 rd rs1 => .word (word32 0b0110100 0b11000 rs1 0b101 rd 0b0010011)
  | .orcB rd rs1 => .word (word32 0b0010100 0b00111 rs1 0b101 rd 0b0010011)
  | .clmul rd rs1 rs2 => .word (word32 0b0000101 rs2 rs1 0b001 rd 0b0110011)
  | .clmulh rd rs1 rs2 => .word (word32 0b0000101 rs2 rs1 0b011 rd 0b0110011)
  | .clmulr rd rs1 rs2 => .word (word32 0b0000101 rs2 rs1 0b010 rd 0b0110011)
  | .bset rd rs1 rs2 => .word (word32 0b0010100 rs2 rs1 0b001 rd 0b0110011)
  | .bseti rd rs1 shamt => .word (word32 0b0010100 shamt rs1 0b001 rd 0b0010011)
  | .bclr rd rs1 rs2 => .word (word32 0b0100100 rs2 rs1 0b001 rd 0b0110011)
  | .bclri rd rs1 shamt => .word (word32 0b0100100 shamt rs1 0b001 rd 0b0010011)
  | .binv rd rs1 rs2 => .word (word32 0b0110100 rs2 rs1 0b001 rd 0b0110011)
  | .binvi rd rs1 shamt => .word (word32 0b0110100 shamt rs1 0b001 rd 0b0010011)
  | .bext rd rs1 rs2 => .word (word32 0b0100100 rs2 rs1 0b101 rd 0b0110011)
  | .bexti rd rs1 shamt => .word (word32 0b0100100 shamt rs1 0b101 rd 0b0010011)
  | .bcompress rd rs1 rs2 => .word (word32 0b0000100 rs2 rs1 0b110 rd 0b0110011)
  | .bdecompress rd rs1 rs2 => .word (word32 0b0100100 rs2 rs1 0b110 rd 0b0110011)
  | .pack rd rs1 rs2 => .word (word32 0b0000100 rs2 rs1 0b100 rd 0b0110011)
  | .packh rd rs1 rs2 => .word (word32 0b0000100 rs2 rs1 0b111 rd 0b0110011)
  | .bfp rd rs1 rs2 => .word (word32 0b0100100 rs2 rs1 0b111 rd 0b0110011)
  | .packu rd rs1 rs2 => .word (word32 0b0100100 rs2 rs1 0b100 rd 0b0110011)
  | .grev rd rs1 rs2 => .word (word32 0b0110100 rs2 rs1 0b101 rd 0b0110011)
  | .grevi rd rs1 shamt => .word (word32 0b0110100 shamt rs1 0b101 rd 0b0010011)
  | .gorc rd rs1 rs2 => .word (word32 0b0010100 rs2 rs1 0b101 rd 0b0110011)
  | .gorci rd rs1 shamt => .word (word32 0b0010100 shamt rs1 0b101 rd 0b0010011)
  | .shfl rd rs1 rs2 => .word (word32 0b0000100 rs2 rs1 0b001 rd 0b0110011)
  | .shfli rd rs1 shamt => .word (word32 0b0000100 (0#1 ++ shamt) rs1 0b001 rd 0b0010011)
  | .unshfl rd rs1 rs2 => .word (word32 0b0000100 rs2 rs1 0b101 rd 0b0110011)
  | .unshfli rd rs1 shamt => .word (word32 0b0000100 (0#1 ++ shamt) rs1 0b101 rd 0b0010011)
  | .xpermN rd rs1 rs2 => .word (word32 0b0010100 rs2 rs1 0b010 rd 0b0110011)
  | .xpermB rd rs1 rs2 => .word (word32 0b0010100 rs2 rs1 0b100 rd 0b0110011)
  | .xpermH rd rs1 rs2 => .word (word32 0b0010100 rs2 rs1 0b110 rd 0b0110011)
  | .crc32B rd rs1 => .word (word32 0b0110000 0b10000 rs1 0b001 rd 0b0010011)
  | .crc32H rd rs1 => .word (word32 0b0110000 0b10001 rs1 0b001 rd 0b0010011)
  | .crc32W rd rs1 => .word (word32 0b0110000 0b10010 rs1 0b001 rd 0b0010011)
  | .crc32cB rd rs1 => .word (word32 0b0110000 0b11000 rs1 0b001 rd 0b0010011)
  | .crc32cH rd rs1 => .word (word32 0b0110000 0b11001 rs1 0b001 rd 0b0010011)
  | .crc32cW rd rs1 => .word (word32 0b0110000 0b11010 rs1 0b001 rd 0b0010011)
  | .cAddi4spn rd imm => .half (parcel16 0b000 (imm.extractLsb' 3 1) (imm.extractLsb' 2 1 ++ imm.extractLsb' 4 4)
      (imm.extractLsb' 0 1 ++ imm.extractLsb' 1 1 ++ rd) 0b00)
  | .cLw rd rs1 imm => .half (parcelL 0b010 imm rs1 rd)
  | .cSw rs2 rs1 imm => .half (parcelL 0b110 imm rs1 rs2)
  | .cNop imm => .half (parcelI 0b000 imm 0 0b01)
  | .cAddi rd imm => .half (parcelI 0b000 imm rd 0b01)
  | .cJal imm => .half (parcelJ 0b001 imm)
  | .cLi rd imm => .half (parcelI 0b010 imm rd 0b01)
  | .cAddi16sp imm => .half (parcel16 0b011 (imm.extractLsb' 5 1) 2
      (imm.extractLsb' 0 1 ++ imm.extractLsb' 2 1 ++ imm.extractLsb' 3 2 ++ imm.extractLsb' 1 1) 0b01)
  | .cLui rd imm => .half (parcelI 0b011 imm rd 0b01)
  | .cSrli rd shamt => .half (parcel16 0b100 0 (0b00#2 ++ rd) shamt 0b01)
  | .cSrai rd shamt => .half (parcel16 0b100 0 (0b01#2 ++ rd) shamt 0b01)
  | .cAndi rd imm => .half (parcel16 0b100 (imm.extractLsb' 5 1) (0b10#2 ++ rd) (imm.extractLsb' 0 5) 0b01)
  | .cSub rd rs2 => .half (parcelA 0b00 rd rs2)
  | .cXor rd rs2 => .half (parcelA 0b01 rd rs2)
  | .cOr rd rs2 => .half (parcelA 0b10 rd rs2)
  | .cAnd rd rs2 => .half (parcelA 0b11 rd rs2)
  | .cJ imm => .half (parcelJ 0b101 imm)
  | .cBeqz rs1 imm => .half (parcelB 0b110 imm rs1)
  | .cBnez rs1 imm => .half (parcelB 0b111 imm rs1)
  | .cSlli rd shamt => .half (parcel16 0b000 0 rd shamt 0b10)
  | .cLwsp rd imm => .half (parcel16 0b010 (imm.extractLsb' 3 1) rd (imm.extractLsb' 0 3 ++ imm.extractLsb' 4 2) 0b10)
  | .cJr rs1 => .half (parcel16 0b100 0 rs1 0 0b10)
  | .cMv rd rs2 => .half (parcel16 0b100 0 rd rs2 0b10)
  | .cEbreak => .half (parcel16 0b100 1 0 0 0b10)
  | .cJalr rs1 => .half (parcel16 0b100 1 rs1 0 0b10)
  | .cAdd rd rs2 => .half (parcel16 0b100 1 rd rs2 0b10)
  | .cSwsp rs2 imm => .half (parcel16 0b110 (imm.extractLsb' 3 1) (imm.extractLsb' 0 3 ++ imm.extractLsb' 4 2) rs2 0b10)

/-- The bytes of an instruction in memory order (R261). -/
def Code.bytes : Code → List Byte
  | .half p => [p.extractLsb' 0 8, p.extractLsb' 8 8]
  | .word w => [w.extractLsb' 0 8, w.extractLsb' 8 8, w.extractLsb' 16 8, w.extractLsb' 24 8]

/-- How many bytes an instruction is long (R360). -/
def Code.length : Code → Nat
  | .half _ => 2
  | .word _ => 4

/-- The instruction bits as `mtval` shows them: the word, or the parcel zero-extended (60_exceptions.md R652). -/
def Code.bits : Code → Word
  | .half p => p.setWidth 32
  | .word w => w

/-- The four bytes of an instruction numbered as spec/opcode_table.json numbers its bits: `nbits` of `w`, zero above,
least significant byte at the lowest address. -/
def tableBytes (nbits w : Nat) : List Byte :=
  (Code.word (BitVec.ofNat 32 (w % 2 ^ nbits))).bytes

/-- The instruction the decoder reads from the bits `w` of an opcode-table row of `nbits` bits. -/
def decodeTableWord (nbits w : Nat) : Option Instr :=
  match decode (tableBytes nbits w) with
  | .ok (i, _) => some i
  | .error _ => none

end Sys2Proof
end

