-- ==== Sys2Proof/Machine/Memory.lean ====
section
/-! DEFINITION. Memory as a canonical list of cells (20_memory.md R260, R261): addresses strictly rising, no cell that
holds what an unlisted address reads as. What an unlisted address reads as is DESIGN CHOICE, unsafe, log entry 1. -/

namespace Sys2Proof.Machine

/-- What a byte reads as that nothing has written (D13: arbitrary; the model's choice, log entry 1). -/
def unlistedByte : Byte := 0

/-- The byte at `a`. -/
def memRead : List Host.Cell → Nat → Byte
  | [], _ => unlistedByte
  | (k, b) :: rest, a => if k = a then b else if a < k then unlistedByte else memRead rest a

/-- The cells with the byte at `a` replaced, in canonical form again. -/
def memWrite : List Host.Cell → Nat → Byte → List Host.Cell
  | [], a, b => if b = unlistedByte then [] else [(a, b)]
  | (k, c) :: rest, a, b =>
    if k < a then (k, c) :: memWrite rest a b
    else
      let tail := ((k, c) :: rest).dropWhile fun cell => cell.1 ≤ a
      if b = unlistedByte then tail else (a, b) :: tail

/-- The canonical form: addresses strictly rising, no cell that reads as an unlisted one. -/
def memWf : List Host.Cell → Bool
  | [] => true
  | [(_, b)] => b != unlistedByte
  | (k, b) :: (k', b') :: rest => decide (k < k') && (b != unlistedByte) && memWf ((k', b') :: rest)

/-- Byte `i` of a word, byte 0 the least significant (R261). -/
def byteOf (w : Word) (i : Nat) : Byte := w.extractLsb' (8 * i) 8

/-- The address `i` bytes after `a`, modulo 2^32. -/
def addrAt (a : Word) (i : Nat) : Nat := (a + BitVec.ofNat 32 i).toNat

/-- The `n` bytes from `a` as a little-endian number (R261). -/
def memReadN (m : List Host.Cell) (a : Word) : Nat → Nat
  | 0 => 0
  | n + 1 => memReadN m a n + (memRead m (addrAt a n)).toNat * 2 ^ (8 * n)

/-- The low `n` bytes of `v` stored from `a`, little-endian (R261). -/
def memWriteN (m : List Host.Cell) (a v : Word) : Nat → List Host.Cell
  | 0 => m
  | n + 1 => memWrite (memWriteN m a v n) (addrAt a n) (byteOf v n)

/-- The four bytes from `a` as a word. -/
def memReadWord (m : List Host.Cell) (a : Word) : Word := BitVec.ofNat 32 (memReadN m a 4)

end Sys2Proof.Machine
end

