-- ==== Sys2Proof/Config.lean ====
section
/-! DEFINITION. What one build of the core and its platform fix (spec 00_scope.md R8, R9), and the values the spec
leaves free, as constants without a body: nothing proved of this model can lean on one of them. -/

namespace Sys2Proof

/-- The bus type of the build (R8): it fixes the reset value of `mfdc.sepd` (R125), and two harts need AXI4 (R800). -/
inductive BusType where
  | axi4
  | ahbLite
deriving DecidableEq, Repr

/-- One memory protection window (20_memory.md R283). -/
structure Window where
  enable : Bool
  addr : Word
  mask : Word
deriving DecidableEq, Repr

/-- The bus interfaces and directions of R266: instruction fetch, load/store, debug system bus. -/
inductive BusUse where
  | fetch
  | read
  | write
  | debugRead
  | debugWrite
deriving DecidableEq, Repr

/-- A range of bus addresses that the platform answers with memory, and the requests that it accepts there (R266); every other
request is answered with an error. -/
structure BusRam where
  base : Nat
  size : Nat
  fetch : Bool
  read : Bool
  write : Bool
  debugRead : Bool
  debugWrite : Bool
deriving DecidableEq, Repr

/-- The range accepts requests of this kind. -/
def BusRam.permits (r : BusRam) : BusUse → Bool
  | .fetch => r.fetch
  | .read => r.read
  | .write => r.write
  | .debugRead => r.debugRead
  | .debugWrite => r.debugWrite

/-- Build arguments and constant pins of the core (R8, R9) and the platform's bus map (R266, 92 section 2). Plain data:
a statement over every `Config` covers every build. -/
structure Config where
  /-- `NUM_THREADS` = 2. -/
  dualThread : Bool
  bus : BusType
  iccmEnable : Bool
  iccmRegion : BitVec 4
  iccmOffset : Nat
  /-- `RV_ICCM_SIZE`, in KB. -/
  iccmKb : Nat
  dccmEnable : Bool
  dccmRegion : BitVec 4
  dccmOffset : Nat
  /-- `RV_DCCM_SIZE`, in KB. -/
  dccmKb : Nat
  icacheEnable : Bool
  /-- `RV_ICACHE_SIZE`, in KB. -/
  icacheKb : Nat
  /-- Four ways; else two. -/
  icacheFourWay : Bool
  /-- 64-byte lines; else 32-byte lines. -/
  icacheLine64 : Bool
  /-- `RV_ICACHE_ECC`: ECC; else parity. -/
  icacheEcc : Bool
  picRegion : BitVec 4
  picOffset : Nat
  /-- `RV_PIC_SIZE`, in KB. -/
  picKb : Nat
  /-- `RV_PIC_TOTAL_INT`: the number of interrupt sources. -/
  picTotalInt : Nat
  /-- The fast interrupt redirect is built in (60_exceptions.md R672). -/
  fastRedirect : Bool
  /-- `ATOMIC_ENABLE`. -/
  atomicEnable : Bool
  /-- `INST_ACCESS_*`, windows 0 to 7. -/
  instWindows : List Window
  /-- `DATA_ACCESS_*`, windows 0 to 7. -/
  dataWindows : List Window
  /-- Pins `rst_vec[31:1]`. -/
  rstVec : BitVec 31
  /-- Pins `nmi_vec[31:1]`. -/
  nmiVec : BitVec 31
  /-- Pins `core_id[31:4]`. -/
  coreId : BitVec 28
  /-- Pins `jtag_id[31:1]`. -/
  jtagId : BitVec 31
  /-- Pin `mpc_reset_run_req[0]`. -/
  mpcResetRun0 : Bool
  /-- Pin `mpc_reset_run_req[1]`. -/
  mpcResetRun1 : Bool
  /-- The platform's memory on the system bus (R266). -/
  ram : List BusRam
  /-- Parameter `PAUSE_AFTER_DEBUG` of 92 section 2: a pause that a debug halt interrupts goes on after the resume. -/
  pauseAfterDebug : Bool
  /-- Parameter `STEP_PAUSE` of 92 section 2: a single-stepped `mcpc` write pauses. -/
  stepPause : Bool
deriving DecidableEq, Repr

/-- The configuration of the spec's worked examples (92_eei_decisions.md D35), with two harts on AXI4 buses as in its
Table B18. What D35 leaves open (the I-cache, the `core_id` and `jtag_id` pins, the two parameters) is DESIGN CHOICE,
unsafe, log entry 2: it is the build of `State.reset` only; statements hold for every build. -/
def Config.default : Config where
  dualThread := true
  bus := .axi4
  iccmEnable := true
  iccmRegion := 0
  iccmOffset := 0x40000
  iccmKb := 128
  dccmEnable := true
  dccmRegion := 0
  dccmOffset := 0x80000
  dccmKb := 128
  icacheEnable := true
  icacheKb := 32
  icacheFourWay := true
  icacheLine64 := true
  icacheEcc := false
  picRegion := 0
  picOffset := 0xC0000
  picKb := 32
  picTotalInt := 8
  fastRedirect := false
  atomicEnable := true
  instWindows := List.replicate 8 ⟨false, 0, 0x3F⟩
  dataWindows := List.replicate 8 ⟨false, 0, 0x3F⟩
  rstVec := 0x10000000
  nmiVec := 0x10007800
  coreId := 0
  jtagId := 0
  mpcResetRun0 := true
  mpcResetRun1 := true
  ram := [⟨0x20000000, 0x10000, true, true, true, true, true⟩]
  pauseAfterDebug := true
  stepPause := false

/-! ## Free values

Each is applied to the counter `State.fresh`, which every step advances, so that each use has a value of its own. -/

/-- What a bus load that is answered with an error writes to its destination (93 U7). Log entry 10. -/
opaque freeLoadData : Nat → Word

/-- What `mcause` holds after software wrote a reserved value to it (93 U10). Log entry 11. -/
opaque freeMcause : Nat → Word

/-- How often the microarchitectural event `event` occurred for hart `hart` in the tick `tick` of a step (10_state.md R48).
Log entry 12. -/
opaque freeEventCount : (hart event tick fresh : Nat) → Nat

/-- Whether an access between a write of `mrac` and the fence uses the new attributes; `region` counts the data regions from 0
and the regions of instruction fetch from 16 (93 U4). Log entry 26. -/
opaque freeAttribute : (region fresh : Nat) → Bool

/-- The store-data candidate of an AMO, for a store-data trigger (92 D31). Log entry 13. -/
opaque freeAmoTriggerData : Nat → Word

/-- Whether a trigger matches whose mask is larger than the largest supported one (93 U19). Log entry 14. -/
opaque freeTopMaskMatch : (trigger fresh : Nat) → Bool

/-- Whether `hit` is set in the first trigger of a chain that alone matches (93 U22). Log entry 15. -/
opaque freeChainHit : (trigger fresh : Nat) → Bool

/-- The pending flag of a gateway after it was configured as edge-triggered (93 U14). Log entry 16. -/
opaque freeGatewayPending : (source fresh : Nat) → Bool

/-- The way a full I-cache set gives up (the spec names a replacement state but no policy). Log entry 17. -/
opaque freeVictim : Nat → Fin 4

/-- The pseudo-LRU bits of an I-cache set after an access to it. Log entry 17. -/
opaque freeLru : Nat → BitVec 3

/-- The ECC bits of a 64-bit chunk of the I-cache (00_scope.md R7(c): the code is not given). Log entry 18. -/
opaque chunkEcc : DWord → BitVec 7

/-- The ECC bits of an I-cache tag (R7(c)). Log entry 18. -/
opaque tagEcc : BitVec 21 → BitVec 5

/-- The I-cache place a diagnostic access with bits of `dicawics.index` set that must be 0 addresses (93 U25). Log
entry 19. -/
opaque freeDiagPlace : Nat → BitVec 14

/-- Whether a store that a forced debug halt terminated was performed (93 U18). Log entry 20. -/
opaque freeTerminatedStore : (position fresh : Nat) → Bool

/-- `data0` and `data1` after an abstract command, where it does not define them (93 U27). Log entry 21. -/
opaque freeAbstractData : (register fresh : Nat) → Word

/-- The bits of `sbdata0` and `sbdata1` above the width of a system bus read (12 R247). Log entry 22. -/
opaque freeBusData : Nat → DWord

/-- What a DMI read gives where the spec states no value: of an address without a register (12 R236; log entry 23), or of a data register
while a command or a bus access that uses it is in progress (R244, R247; log entry 62). -/
opaque freeDmiData : Nat → Word

end Sys2Proof
end

