-- ==== Sys2Proof/Machine/State.lean ====
section
/-! DEFINITION. The state of the machine as plain data: everything the spec gives each hart and the core
(10_state.md, 11_state_custom_csrs.md, 12_state_pic_debug_regs.md), the memory, the environment's pins and pending
moves, and the state after reset (70_reset_and_hazards.md R864 to R869). INVENTORY.md lists every field with its rule. -/

namespace Sys2Proof.Machine

/-- The two harts (R20). -/
inductive HartId where
  | t0
  | t1
deriving DecidableEq, Repr

/-- One thing per hart. -/
structure Pair (α : Type) where
  t0 : α
  t1 : α
deriving DecidableEq, Repr

/-- What a hart is doing (62 R810). -/
inductive Activity where
  /-- Hart 1 from reset until it is started (R862). -/
  | idle
  /-- Executing instructions, PAUSE included. -/
  | running
  /-- Halted in Debug Mode, `db-halt`. -/
  | dbHalt
  /-- Halted by the PMU or by firmware, `pmu/fw-halt`. -/
  | sleep
deriving DecidableEq, Repr

/-- The standard trap CSRs of a hart (R31, R37 to R42) and `mscause` (R105). -/
structure TrapRegs where
  /-- `mstatus.MIE`. -/
  mstatusMie : Bool
  /-- `mstatus.MPIE`. -/
  mstatusMpie : Bool
  mie : Word
  mtvec : Word
  mscratch : Word
  mepc : Word
  mcause : Word
  mtval : Word
  /-- `mscause[3:0]`. -/
  mscause : BitVec 4
deriving DecidableEq, Repr

/-- The event counters 3 to 6. -/
inductive HpmIdx where
  | c3 | c4 | c5 | c6
deriving DecidableEq, Repr

/-- The counters that clock cycles advance (R43, R46). -/
inductive CounterId where
  | cycle
  | hpm (n : HpmIdx)
deriving DecidableEq, Repr

/-- The performance counters of a hart (R43 to R47). -/
structure Counters where
  mcycle : DWord
  minstret : DWord
  hpm3 : DWord
  hpm4 : DWord
  hpm5 : DWord
  hpm6 : DWord
  /-- `mhpmevent3` to `mhpmevent6`: the selected event numbers. -/
  sel3 : BitVec 10
  sel4 : BitVec 10
  sel5 : BitVec 10
  sel6 : BitVec 10
  /-- `mcountinhibit`; its bits 31 to 7 and 1 are hardwired 0. -/
  inhibit : BitVec 7
  /-- The MODEL's: the counter that a CSR instruction of this step wrote, and which has had its clock cycle (R44, log
  entry 53). -/
  written : Option CounterId
deriving DecidableEq, Repr

/-- One internal timer (R115 to R117, 62 R782 to R784). -/
structure Timer where
  cnt : Word
  bound : Word
  enable : Bool
  haltEn : Bool
  pauseEn : Bool
  /-- `mitctl1.cascade`; stays false in timer 0. -/
  cascade : Bool
  /-- The hidden flag `mit_hold` (R784). -/
  hold : Bool
  /-- The MODEL's: a CSR write to the counter waits for its clock cycle (R783); it holds whether the counter matched its
  bound before the write. -/
  written : Option Bool
deriving DecidableEq, Repr

/-- The PIC registers of a hart in CSR space (R200 to R205); the priority fields are internal values (R190). -/
structure HartPic where
  /-- `meivt.base`. -/
  vecBase : BitVec 22
  /-- `meihap.claimid`. -/
  claimId : BitVec 8
  /-- `meipt.prithresh`. -/
  thresh : BitVec 4
  /-- `meicidpl.clidpri`. -/
  clidPri : BitVec 4
  /-- `meicurpl.currpri`. -/
  currPri : BitVec 4
deriving DecidableEq, Repr

/-- One trigger: the writable bits of `mcontrol` (R216) and `tdata2` (R218). -/
structure Trigger where
  dmode : Bool
  hit : Bool
  select : Bool
  action : Bool
  chain : Bool
  /-- `mcontrol.match`. -/
  napot : Bool
  /-- `mcontrol.m`. -/
  m : Bool
  execute : Bool
  store : Bool
  load : Bool
  tdata2 : Word
deriving DecidableEq, Repr

/-- The triggers of a hart (R215 to R218). -/
structure Triggers where
  tselect : BitVec 2
  tr0 : Trigger
  tr1 : Trigger
  tr2 : Trigger
  tr3 : Trigger
deriving DecidableEq, Repr

/-- The debug registers of a hart (R220, R221, R123) and what holds it in Debug Mode (62 R833, R822). -/
structure DebugRegs where
  /-- `dcsr.ebreakm`. -/
  ebreakm : Bool
  /-- `dcsr.stepie`. -/
  stepie : Bool
  /-- `dcsr.stopcount`. -/
  stopcount : Bool
  /-- `dcsr.cause`. -/
  cause : BitVec 3
  /-- `dcsr.step`. -/
  step : Bool
  dpc : Word
  /-- `mfdhs`. -/
  mfdhs : BitVec 2
  dbgHaltState : Bool
  mpcHaltState : Bool
  /-- A debugger resume request that waits for the MPC's (Table 6-1). -/
  resumePending : Bool
  /-- An MPC run request that waits for the debugger's (Table 6-1). -/
  runPending : Bool
  /-- The hart executes the one instruction of a single step (R835). -/
  stepping : Bool
  /-- The stepped instruction is done; the hart quiesces before it enters Debug Mode again (R812). -/
  stepDone : Bool
  /-- The forced-debug-halt timeout counter (R122). -/
  timeout : Nat
  /-- `debug_brkpt_status`. -/
  brkptStatus : Bool
  /-- The MODEL's: an entry into Debug Mode waits for the bus (62 R812, R822). -/
  haltWaits : Bool
deriving DecidableEq, Repr

/-- The I-cache diagnostic CSRs of a hart (R225 to R228). -/
structure CacheDiag where
  dicawics : Word
  dicad0 : Word
  dicad0h : Word
  dicad1 : Word
deriving DecidableEq, Repr

/-- One bus transaction of a store, waiting in the unified buffer (R61, 20_memory.md R274). -/
structure PendingStore where
  addr : Word
  /-- Its size in bytes, 1 to 4. -/
  size : Nat
  data : Word
  sideEffect : Bool
  /-- The address of the store instruction, which an error response reports (11 R103). -/
  target : Word
deriving DecidableEq, Repr

/-- A load or store that the executing hart has begun and not finished. -/
inductive InFlight where
  /-- A bus load in the unified buffer, without its answer yet (R61). -/
  | sent (i : Instr)
  /-- A split access (20_memory.md R305) whose first part is done: the bytes read, none if the bus reported an error. -/
  | half (i : Instr) (low : Option Word)
deriving DecidableEq, Repr

/-- The MODEL's: the value of `mrac` at the hart's last `fence` (`data`) and at its last `fence.i` (`fetch`); an access uses these
attributes or those of `mrac` as it is now (11 R101, 93 U4). -/
structure SeenAttrs where
  data : Word
  fetch : Word
deriving DecidableEq, Repr

/-- The two core-internal NMI requests (60_exceptions.md R690). -/
inductive BusNmi where
  | store
  | load
deriving DecidableEq, Repr

/-- The pending NMI requests and the D-bus error capture of a hart (R62, R63, R103). -/
structure NmiRegs where
  pin : Bool
  bus : Option BusNmi
  mdseac : Word
  locked : Bool
  /-- The MODEL's: the captured error is a load's of this clock cycle, so a store's of the same cycle comes before it
  (20_memory.md R320). -/
  loadNow : Bool
deriving DecidableEq, Repr

/-- Power management and pause of a hart (R120, R121, 62 R814 to R820). -/
structure PowerRegs where
  /-- `mpmc.haltie`. -/
  haltie : Bool
  /-- The hidden `pause_count`; 0 when the hart does not pause. -/
  pauseCount : Word
  /-- A PMU halt request not yet honoured. -/
  pmuHaltPending : Bool
  /-- An MPC debug halt request not yet honoured. -/
  mpcHaltPending : Bool
  /-- The MPC run acknowledge waits for the PMU run request: a PMU halt request was pending when the hart left Debug Mode on the MPC's
  run request (R833). -/
  mpcRunOwed : Bool
deriving DecidableEq, Repr

/-- One hart (R20 to R50, R60 to R63). -/
structure Hart where
  /-- `x0` to `x31`; entry 0 is never written and never read. -/
  regs : Vector Word 32
  pc : Word
  activity : Activity
  trap : TrapRegs
  ctr : Counters
  tim0 : Timer
  tim1 : Timer
  pic : HartPic
  trig : Triggers
  dbg : DebugRegs
  diag : CacheDiag
  /-- The load reservation: its word address (R60). -/
  reservation : Option Word
  /-- The unified buffer, oldest store first (R61). -/
  buffer : List PendingStore
  /-- The load or store in progress (R61, 20_memory.md R305). -/
  inFlight : Option InFlight
  nmi : NmiRegs
  power : PowerRegs
  seen : SeenAttrs
  /-- The MODEL's: hart 1 has been started and has executed no instruction since (11 R118). -/
  starting : Bool
deriving DecidableEq, Repr

/-- The CSRs the harts share (R100, R107 to R113, R122, R125, R126). -/
structure SharedRegs where
  mrac : Word
  micect : Word
  miccmect : Word
  mdccmect : Word
  /-- `mhartstart.start1`. -/
  start1 : Bool
  mnmipdel : BitVec 2
  mfdht : BitVec 6
  mfdc : Word
  mcgc : BitVec 10
deriving DecidableEq, Repr

/-- One interrupt source of the PIC with its gateway (R183 to R189, R66, 61_pic.md R723, R765). -/
structure Source where
  /-- `meiplS.priority`, internal value (R190). -/
  pri : BitVec 4
  /-- `meieS.inten`. -/
  en : Bool
  /-- `meigwctrlS.type`: edge-triggered. -/
  edge : Bool
  /-- `meigwctrlS.polarity`: active-low. -/
  low : Bool
  /-- `meidelS.del`: hart 1 handles the interrupt. -/
  del : Bool
  /-- The gateway's pending flag `IP`. -/
  ip : Bool
  /-- The synchronised input, as the gateway last saw it. -/
  sync : Bool
  /-- The pin `extintsrc_req[S]`, which the SoC drives. -/
  pin : Bool
deriving DecidableEq, Repr

/-- The PIC (R180 to R190). -/
structure Pic where
  /-- `mpiccfg.priord`. -/
  priord : Bool
  /-- Sources 1 to `RV_PIC_TOTAL_INT`. -/
  sources : List Source
deriving DecidableEq, Repr

/-- Tag and status of one I-cache line (R226, R228). -/
structure CacheTag where
  tag : BitVec 21
  valid : Bool
  check : BitVec 5
deriving DecidableEq, Repr

/-- Eight bytes of an I-cache line with their parity or ECC bits (R226 to R228). -/
structure CacheChunk where
  data : DWord
  check : BitVec 7
deriving DecidableEq, Repr

/-- The I-cache arrays (R64, R224), sparse: an entry that is not listed is invalid and reads 0 (log entry 54). Keys: way and set of a
tag, way and eight-byte index of a chunk, set of the pseudo-LRU bits. -/
structure ICache where
  tags : List ((Nat × Nat) × CacheTag)
  chunks : List ((Nat × Nat) × CacheChunk)
  lru : List (Nat × BitVec 3)
deriving DecidableEq, Repr

/-- The two system bus accesses of the Debug Module (R245 to R247). -/
inductive SbOp where
  | read
  | write
deriving DecidableEq, Repr

/-- The Debug Module (R236 to R247) and the DTM's `dmi` register (R235). -/
structure DebugModule where
  data0 : Word
  data1 : Word
  /-- `dmcontrol.dmactive`. -/
  dmactive : Bool
  /-- `dmcontrol.ndmreset`. -/
  ndmreset : Bool
  /-- `dmcontrol.hasel`. -/
  hasel : Bool
  /-- `dmcontrol.hartsello[0]`. -/
  hartsel : HartId
  /-- `hawindow.maskdata`. -/
  hawindow : BitVec 2
  /-- The halt request bit of each hart (R237). -/
  haltReq : Pair Bool
  /-- The resume acknowledge of each hart (R238). -/
  resumeAck : Pair Bool
  /-- The sticky `havereset` of each hart (R237, R238). -/
  haveReset : Pair Bool
  /-- `abstractcs.cmderr`. -/
  cmderr : BitVec 3
  command : Word
  /-- The abstract command executes, on this hart: `abstractcs.busy` (R242). -/
  running : Option HartId
  /-- `abstractauto`. -/
  autoexec : BitVec 2
  /-- The system bus access in progress: `sbcs.sbbusy` (R245). -/
  sbBusy : Option SbOp
  sbBusyError : Bool
  sbReadOnAddr : Bool
  sbAccess : BitVec 3
  sbAutoIncrement : Bool
  sbReadOnData : Bool
  sbError : BitVec 3
  sbAddress0 : Word
  sbData0 : Word
  sbData1 : Word
  dmiAddress : BitVec 7
  dmiData : Word
  /-- What the last JTAG scan captured. -/
  jtagOut : BitVec 41
deriving DecidableEq, Repr

/-- The pins of one hart: what the SoC drives, and the acknowledges the core drives (R814, R833). -/
structure Pins where
  softInt : Bool
  timerInt : Bool
  cpuHaltReq : Bool
  cpuRunReq : Bool
  mpcHaltReq : Bool
  mpcRunReq : Bool
  cpuHaltAck : Bool
  cpuRunAck : Bool
  mpcHaltAck : Bool
  mpcRunAck : Bool
deriving DecidableEq, Repr

/-- What the SoC withholds from a hart: responses on the load/store bus and on the fetch bus (R266, 93 U1). -/
structure BusStall where
  lsu : Bool
  ifu : Bool
deriving DecidableEq, Repr

/-- The answer to the last access on the DMA slave port (R325). -/
inductive DmaResponse where
  | none
  | ok (data : DWord)
  | error
deriving DecidableEq, Repr

/-- One move of the environment (92_eei_decisions.md section 3). It happens between two steps of the harts. -/
inductive Event where
  /-- The SoC drives `extintsrc_req[source]`; this pin, `softInt` and `timerInt` are seen at the level they have at the next step of a hart,
  so a pulse withdrawn before it is not seen (70 R872; log entry 73). -/
  | extInt (source : Nat) (level : Bool)
  | softInt (h : HartId) (level : Bool)
  | timerInt (h : HartId) (level : Bool)
  | nmi (level : Bool)
  | cpuHaltReq (h : HartId) (level : Bool)
  | cpuRunReq (h : HartId) (level : Bool)
  | mpcHaltReq (h : HartId) (level : Bool)
  | mpcRunReq (h : HartId) (level : Bool)
  /-- `rst_l`: asserted, or released. -/
  | coreReset (asserted : Bool)
  /-- A pulse of `dbg_rst_l`. -/
  | debugReset
  /-- A pulse of `jtag_trst_n`. -/
  | jtagReset
  /-- One JTAG scan of the data register that `ir` selects, with `dr` shifted in. -/
  | jtagScan (ir : BitVec 5) (dr : BitVec 41)
  /-- A DMA read of `size` bytes. -/
  | dmaRead (addr : Word) (size : Nat)
  /-- A DMA write; `strobe` selects bytes of the aligned double-word. -/
  | dmaWrite (addr : Word) (size : Nat) (strobe : BitVec 8) (data : DWord)
  /-- Another bus master, or a device, changes a byte of system-bus memory. -/
  | socWrite (addr : Word) (value : Byte)
  /-- A parity or ECC error is detected in a set of the I-cache (R322). -/
  | icacheError (set : Nat)
  /-- A correctable error is detected in the ICCM (R322). -/
  | iccmError
  /-- A correctable error is detected in the DCCM (R322). -/
  | dccmError
  /-- The word at `addr` of a closely-coupled memory, or of SoC memory, gets a double-bit error (R321). -/
  | doubleBitError (addr : Word)
  /-- The SoC repairs the word at `addr` of its memory. -/
  | repair (addr : Word)
  /-- The next step is one of hart `h` (62 R803). -/
  | schedule (h : HartId)
  /-- From now on a step takes one clock tick and `extra` more (70 R890). -/
  | pace (extra : Nat)
  /-- From now on the newest `n` stores of hart `h` wait in its buffer (R274, R282). -/
  | hold (h : HartId) (n : Nat)
  /-- The harts take one step before the next move. -/
  | proceed
  /-- The SoC withholds, or resumes, its answers to hart `h` (R266, R822). -/
  | stall (h : HartId) (stall : BusStall)
  /-- From now on a split access takes a step for each of its two parts, or one step in all (R305). -/
  | split (on : Bool)
  /-- From now on the debugger's commands and system bus accesses stay in progress; or they are done at once, and what was in
  progress is done (12 R242, R245). -/
  | debugPace (slow : Bool)
deriving DecidableEq, Repr

/-- The environment as far as it is state: its pending moves and its standing choices. All of it is the MODEL's. -/
structure Env where
  /-- The moves still to come, the next one first. -/
  inputs : List Event
  /-- The clock ticks of a step beyond the first. -/
  extraTicks : Nat
  /-- How many stores of a hart the bus leaves in its buffer. -/
  held : Pair Nat
  stall : Pair BusStall
  /-- The parts of a split access take a step each. -/
  splits : Bool
  /-- The debugger's commands and system bus accesses take time. -/
  slowDebug : Bool
  /-- The counter the free values of `Config` are applied to. -/
  fresh : Nat
deriving DecidableEq, Repr

/-- The machine. -/
structure State where
  cfg : Config
  /-- The hart whose step is next; `exec` acts on it. -/
  cur : HartId
  /-- `rst_l` is asserted (R860). -/
  inReset : Bool
  harts : Pair Hart
  shared : SharedRegs
  pic : Pic
  icache : ICache
  dm : DebugModule
  /-- Every byte of the address space, as address and value, addresses strictly rising; an address that is not
  listed reads as 0. -/
  mem : List Host.Cell
  /-- The words of memory, by word address, that have a double-bit error (R321). -/
  badWords : List Nat
  pins : Pair Pins
  /-- The pin `nmi_int`. -/
  nmiPin : Bool
  dma : DmaResponse
  env : Env
deriving DecidableEq, Repr

/-- Why the machine stops. -/
inductive Fault where
  /-- Raised by `step` in a state whose next hart is hart 1 of a core built with one hart, which no run reaches.
  Safe. -/
  | noSuchHart
deriving DecidableEq, Repr

/-- What the model refuses to give a meaning. -/
inductive Refusal where
  /-- Raised by `exec` for an instruction without a meaning yet. Safe. -/
  | notModelled (mnemonic : String)
  /-- Raised by `step` for a build that breaks the placement rules (00_scope.md R10, 20_memory.md R263, R283; 93 U35:
  "configuration rejected"). Safe. -/
  | badConfiguration
  /-- Raised by `step` for an environment move that the spec makes an obligation of the SoC or the debugger not to make
  (93 section 1, treatment "refuse"). Safe. -/
  | brokenObligation (rule : String)
deriving DecidableEq, Repr

/-! ## Reset (70 section 2) -/

/-- R865. -/
def TrapRegs.reset : TrapRegs := ⟨false, false, 0, 0, 0, 0, 0, 0, 0⟩

/-- R865. -/
def Counters.reset : Counters := ⟨0, 0, 0, 0, 0, 0, 0, 0, 0, 0, 0, none⟩

/-- R865: the bound is all ones, the timer is enabled. -/
def Timer.reset : Timer := ⟨0, 0xFFFFFFFF, true, false, false, false, false, none⟩

/-- R865. -/
def HartPic.reset : HartPic := ⟨0, 0, 0, 0, 0⟩

/-- R865: `tdata1` reads 0x23E0_0000. -/
def Trigger.reset : Trigger := ⟨false, false, false, false, false, false, false, false, false, false, 0⟩

/-- R865. -/
def Triggers.reset : Triggers := ⟨0, .reset, .reset, .reset, .reset⟩

/-- R865: `dcsr` reads 0x4000_0003. -/
def DebugRegs.reset : DebugRegs :=
  ⟨false, false, false, 0, false, 0, 0, false, false, false, false, false, false, 0, false, false⟩

/-- R865: `mpmc` reads 2. -/
def PowerRegs.reset : PowerRegs := ⟨true, 0, false, false, false⟩

/-- `{rst_vec[31:1], 0}` (R864). -/
def resetVector (cfg : Config) : Word := cfg.rstVec ++ 0#1

/-- `{nmi_vec[31:1], 0}` (60_exceptions.md R692). -/
def nmiVector (cfg : Config) : Word := cfg.nmiVec ++ 0#1

/-- Per-hart state after reset (R865), in the activity state `a`. -/
def Hart.resetWith (cfg : Config) (a : Activity) : Hart where
  regs := Vector.replicate 32 0
  pc := resetVector cfg
  activity := a
  trap := .reset
  ctr := .reset
  tim0 := .reset
  tim1 := .reset
  pic := .reset
  trig := .reset
  dbg := .reset
  diag := ⟨0, 0, 0, 0⟩
  reservation := none
  buffer := []
  inFlight := none
  nmi := ⟨false, none, 0, false, false⟩
  power := .reset
  seen := ⟨0, 0⟩
  starting := false

/-- Per-core CSRs after reset (R866). -/
def SharedRegs.resetWith (cfg : Config) : SharedRegs where
  mrac := 0
  micect := 0
  miccmect := 0
  mdccmect := 0
  start1 := false
  mnmipdel := 1
  mfdht := 0
  mfdc := match cfg.bus with
    | .axi4 => 0x00070040
    | .ahbLite => 0x00070000
  mcgc := 0x200

/-- R867. -/
def Source.reset : Source := ⟨0, false, false, false, false, false, false, false⟩

/-- R867. -/
def Pic.resetWith (cfg : Config) : Pic := ⟨false, List.replicate cfg.picTotalInt .reset⟩

/-- D12: every line invalid; that the arrays read 0 is the model's choice, log entry 54. -/
def ICache.reset : ICache := ⟨[], [], []⟩

/-- R869, with `command.transfer` = 1 (90_conflicts.md C14); `havereset` is the core's and is set by its reset. -/
def DebugModule.reset : DebugModule where
  data0 := 0
  data1 := 0
  dmactive := false
  ndmreset := false
  hasel := false
  hartsel := .t0
  hawindow := 0
  haltReq := ⟨false, false⟩
  resumeAck := ⟨false, false⟩
  haveReset := ⟨true, true⟩
  cmderr := 0
  command := 0x00020000
  running := none
  autoexec := 0
  sbBusy := none
  sbBusyError := false
  sbReadOnAddr := false
  sbAccess := 2
  sbAutoIncrement := false
  sbReadOnData := false
  sbError := 0
  sbAddress0 := 0
  sbData0 := 0
  sbData1 := 0
  dmiAddress := 0
  dmiData := 0
  jtagOut := 0

/-- Every pin at the level that asks for nothing (70 R875(c)). -/
def Pins.idle : Pins := ⟨false, false, false, false, false, false, false, false, false, false⟩

/-- Hart 0 out of reset (R864): Running, or DbHalt when `mpc_reset_run_req[0]` = 0 or the debugger asks for a halt. Hart 1
stays Idle. -/
def Hart.outOfReset (cfg : Config) (resetRun haltReq : Bool) : Hart :=
  let h := Hart.resetWith cfg .running
  if resetRun && !haltReq then h
  else { h with
    activity := .dbHalt
    dbg := { h.dbg with
      cause := 3
      dpc := resetVector cfg
      dbgHaltState := haltReq
      mpcHaltState := !resetRun } }

/-- The environment after reset: no pending move, one tick a step, nothing held back (DESIGN CHOICE, log entry 3). -/
def Env.reset : Env := ⟨[], 0, ⟨0, 0⟩, ⟨⟨false, false⟩, ⟨false, false⟩⟩, false, false, 0⟩

/-- The machine right after reset in the build `cfg` (R864 to R869). -/
def State.resetWith (cfg : Config) : State where
  cfg := cfg
  cur := .t0
  inReset := false
  harts := ⟨Hart.outOfReset cfg cfg.mpcResetRun0 false, Hart.resetWith cfg .idle⟩
  shared := .resetWith cfg
  pic := .resetWith cfg
  icache := .reset
  dm := .reset
  mem := []
  badWords := []
  pins := ⟨.idle, .idle⟩
  nmiPin := false
  dma := .none
  env := .reset

/-- The machine right after reset, in the build of the spec's examples (D35). -/
def State.reset : State := State.resetWith Config.default

end Sys2Proof.Machine
end

