-- ==== Sys2Proof/Machine/Regions.lean ====
section
/-! DEFINITION. The address space of a build: where the core-local blocks lie, the regions, the protection windows and
the bus (20_memory.md R260 to R266, R283 to R285), and which builds there are (00_scope.md R8, R10). -/

namespace Sys2Proof.Machine

/-- The region of an address: bits 31 to 28 (R260). -/
def regionOf (a : Nat) : Nat := a / 2 ^ 28

/-- First byte of a block (R262). -/
def blockBase (region : BitVec 4) (offset : Nat) : Nat := region.toNat * 2 ^ 28 + offset

/-- `a` lies in the `size` bytes from `base`. -/
def inBlock (base size a : Nat) : Bool := decide (base ≤ a) && decide (a < base + size)

/-- `InICCM` (R262). -/
def inIccm (c : Config) (a : Nat) : Bool :=
  c.iccmEnable && inBlock (blockBase c.iccmRegion c.iccmOffset) (c.iccmKb * 1024) a

/-- `InDCCM` (R262). -/
def inDccm (c : Config) (a : Nat) : Bool :=
  c.dccmEnable && inBlock (blockBase c.dccmRegion c.dccmOffset) (c.dccmKb * 1024) a

/-- First byte of the PIC registers (R180, R262). -/
def picBase (c : Config) : Nat := blockBase c.picRegion c.picOffset

/-- `InPIC` (R262, D17). -/
def inPic (c : Config) (a : Nat) : Bool := inBlock (picBase c) (c.picKb * 1024) a

/-- `IRegion`: the region holds the ICCM (R285). -/
def iRegion (c : Config) (a : Nat) : Bool := c.iccmEnable && (regionOf a == c.iccmRegion.toNat)

/-- `DRegion`: the region holds the DCCM or the PIC registers (R285). -/
def dRegion (c : Config) (a : Nat) : Bool :=
  (c.dccmEnable && (regionOf a == c.dccmRegion.toNat)) || (regionOf a == c.picRegion.toNat)

/-- `InWindow` (R283). -/
def inWindow (w : Window) (a : Nat) : Bool := ((BitVec.ofNat 32 a) ||| w.mask) == (w.addr ||| w.mask)

/-- The windows let an access from `first` to `last` pass: no window is enabled, or both bytes are in one enabled window
(R284, D18). -/
def windowsAllow (ws : List Window) (first last : Nat) : Bool :=
  !(ws.any fun w => w.enable) || ws.any fun w => w.enable && inWindow w first && inWindow w last

/-- `sideeffect(a)` (R264). -/
def sideEffect (mrac : Word) (a : Nat) : Bool := mrac.getLsbD (2 * (regionOf a % 16) + 1)

/-- `cacheable(a)` (R264). -/
def cacheable (mrac : Word) (a : Nat) : Bool := mrac.getLsbD (2 * (regionOf a % 16))

/-- The `n` bytes from `a` are memory of the platform that accepts such requests (R266). -/
def busAccepts (c : Config) (use : BusUse) (a n : Nat) : Bool :=
  c.ram.any fun r => r.permits use && decide (r.base ≤ a) && decide (a + n ≤ r.base + r.size)

/-- The `n` bytes from `a` are memory of the platform, whatever requests it accepts (R266). -/
def busMemory (c : Config) (a n : Nat) : Bool :=
  c.ram.any fun r => decide (r.base ≤ a) && decide (a + n ≤ r.base + r.size)

/-- One of the `n` bytes from `a` lies in a word with a double-bit error (R321). -/
def State.spoiled (s : State) (a n : Nat) : Bool := s.badWords.any fun w => decide (a < w + 4) && decide (w < a + n)

/-- The SoC's answer to a bus request for the `n` bytes from `a`: memory, or an error response (R266, R321). -/
def State.busAnswers (s : State) (use : BusUse) (a n : Nat) : Bool := busAccepts s.cfg use a n && !s.spoiled a n

/-! ## Builds -/

/-- A size rounded up to a power of two of KB: the alignment of a block (R10). -/
def blockAlign (kb : Nat) : Nat := if kb = 48 then 64 * 1024 else kb * 1024

/-- A block of one of the sizes `kbs`, aligned, inside its region (R8, R10). -/
def blockOk (offset kb : Nat) (kbs : List Nat) : Bool :=
  kbs.contains kb && (offset % blockAlign kb == 0) && decide (offset + kb * 1024 ≤ 2 ^ 28)

/-- Two ranges share no byte (R10). -/
def apart (b1 s1 b2 s2 : Nat) : Bool := decide (b1 + s1 ≤ b2) || decide (b2 + s2 ≤ b1)

/-- R283: base and mask of a window. -/
def windowOk (w : Window) : Bool :=
  (w.addr.extractLsb' 0 6 == 0) && (w.mask.extractLsb' 0 6 == 0b111111) && (w.mask &&& (w.mask + 1) == 0) &&
    (w.addr &&& w.mask == 0)

/-- The regions of the core-local blocks (R263). -/
def coreRegions (c : Config) : List Nat :=
  (if c.iccmEnable then [c.iccmRegion.toNat] else []) ++ (if c.dccmEnable then [c.dccmRegion.toNat] else []) ++
    [c.picRegion.toNat]

/-- Bus memory lies inside the address space, outside the core-local regions (R263). -/
def ramOk (c : Config) (r : BusRam) : Bool :=
  decide (r.base + r.size ≤ 2 ^ 32) &&
    (coreRegions c).all fun g => apart (g * 2 ^ 28) (2 ^ 28) r.base r.size

/-- The build rules of R8, R10, R263, R283 and R800; the model rejects any other build (R10). -/
def configOk (c : Config) : Bool :=
  [!c.dualThread || c.bus == .axi4,
   !c.iccmEnable || blockOk c.iccmOffset c.iccmKb [4, 8, 16, 32, 64, 128, 256, 512],
   !c.dccmEnable || blockOk c.dccmOffset c.dccmKb [4, 8, 16, 32, 48, 64, 128, 256, 512],
   blockOk c.picOffset c.picKb [32, 64, 128, 256],
   !c.icacheEnable || [16, 32, 64, 128, 256].contains c.icacheKb,
   decide (2 ≤ c.picTotalInt),
   decide (c.picTotalInt ≤ 255),
   !c.atomicEnable || c.dccmEnable,
   !(c.iccmEnable && c.dccmEnable) ||
     apart (blockBase c.iccmRegion c.iccmOffset) (c.iccmKb * 1024)
       (blockBase c.dccmRegion c.dccmOffset) (c.dccmKb * 1024),
   !c.iccmEnable ||
     apart (blockBase c.iccmRegion c.iccmOffset) (c.iccmKb * 1024) (picBase c) (c.picKb * 1024),
   !c.dccmEnable ||
     apart (blockBase c.dccmRegion c.dccmOffset) (c.dccmKb * 1024) (picBase c) (c.picKb * 1024),
   c.instWindows.length == 8,
   c.dataWindows.length == 8,
   c.instWindows.all windowOk,
   c.dataWindows.all windowOk,
   c.ram.all (ramOk c)].all fun ok => ok

/-- The atomics are built in (R310, 42_a.md R460). -/
def atomicsBuilt (c : Config) : Bool := c.atomicEnable && c.dccmEnable

end Sys2Proof.Machine
end

