-- ==== Sys2Proof/Machine/Ops.lean ====
section
/-! DEFINITION. The named operations over registers, `pc` and counters, taking an exception and returning from one
(60_exceptions.md R670, R676), and entering Debug Mode (62 R832). -/

namespace Sys2Proof.Machine

/-! ## Harts -/

/-- The other hart. -/
def HartId.other : HartId → HartId
  | .t0 => .t1
  | .t1 => .t0

/-- The number of a hart: the `hartid` field of `mhartid` (R34). -/
def HartId.number : HartId → Nat
  | .t0 => 0
  | .t1 => 1

/-- What belongs to hart `h`. -/
def Pair.get {α : Type} (p : Pair α) : HartId → α
  | .t0 => p.t0
  | .t1 => p.t1

/-- The pair with hart `h`'s part replaced. -/
def Pair.set {α : Type} (p : Pair α) (h : HartId) (x : α) : Pair α :=
  match h with
  | .t0 => { p with t0 := x }
  | .t1 => { p with t1 := x }

/-- Hart `h`. -/
def State.hartAt (s : State) (h : HartId) : Hart := s.harts.get h

/-- The state with hart `h` changed by `f`. -/
def State.mapHartAt (s : State) (h : HartId) (f : Hart → Hart) : State :=
  { s with harts := s.harts.set h (f (s.harts.get h)) }

/-- The hart that executes. -/
def State.hart (s : State) : Hart := s.hartAt s.cur

/-- The state with the executing hart changed by `f`. -/
def State.mapHart (s : State) (f : Hart → Hart) : State := s.mapHartAt s.cur f

/-! ## General registers and pc -/

/-- `x[i]`: register `i`; `x0` reads 0 (R21). -/
def Hart.reg (h : Hart) (i : RegIdx) : Word := if i = 0 then 0 else h.regs[i.toNat]'i.isLt

/-- `x[i] <- v`; a write to `x0` is discarded (R21). -/
def Hart.setReg (h : Hart) (i : RegIdx) (v : Word) : Hart :=
  if i = 0 then h else { h with regs := h.regs.set i.toNat v i.isLt }

/-- `x[i]` of the executing hart. -/
def State.reg (s : State) (i : RegIdx) : Word := s.hart.reg i

/-- `pc` of the executing hart. -/
def State.pc (s : State) : Word := s.hart.pc

/-! ## Counting (R43 to R48) -/

/-- How often a selector counts among the events `evs`; selector 0 counts nothing (R47). -/
def occurrences (sel : BitVec 10) (evs : List Nat) : Nat := if sel = 0 then 0 else evs.count sel.toNat

/-- Add `n` to a 64-bit counter unless its inhibit bit is set (R45). -/
def addUnless (inhibited : Bool) (c : DWord) (n : Nat) : DWord :=
  if inhibited then c else c + BitVec.ofNat 64 n

/-- The event counters after the events `evs` (R46). -/
def Counters.count (c : Counters) (evs : List Nat) : Counters :=
  { c with
    hpm3 := addUnless (c.inhibit.getLsbD 3) c.hpm3 (occurrences c.sel3 evs)
    hpm4 := addUnless (c.inhibit.getLsbD 4) c.hpm4 (occurrences c.sel4 evs)
    hpm5 := addUnless (c.inhibit.getLsbD 5) c.hpm5 (occurrences c.sel5 evs)
    hpm6 := addUnless (c.inhibit.getLsbD 6) c.hpm6 (occurrences c.sel6 evs) }

/-- The counters after one committed instruction of `len` bytes: `minstret`, and the events 4, 5 or 6 and those of its
class (R44, R48). -/
def Counters.commit (c : Counters) (len : Nat) (evs : List Nat) : Counters :=
  let c := c.count (4 :: (if len = 2 then 5 else 6) :: evs)
  { c with minstret := addUnless (c.inhibit.getLsbD 2) c.minstret 1 }

/-- The counters of the hart count: not in Sleep, not before the start, and not in Debug Mode with `dcsr.stopcount`
(R43, 62 R811, R786). -/
def Hart.countersOn (h : Hart) : Bool :=
  match h.activity with
  | .running => !(h.dbg.stepping && h.dbg.stopcount)
  | .dbHalt => !h.dbg.stopcount
  | .sleep => false
  | .idle => false

/-- The hart with the events `evs` counted. -/
def Hart.count (h : Hart) (evs : List Nat) : Hart :=
  if h.countersOn then { h with ctr := h.ctr.count evs } else h

/-- The instruction of `len` bytes completes and the next one is at `target` (40_rv32i.md R400 (c), (f)). -/
def Hart.retireTo (h : Hart) (target : Word) (len : Nat) (evs : List Nat) : Hart :=
  { h with
    pc := target
    ctr := if h.countersOn then h.ctr.commit len evs else h.ctr }

/-- The instruction of `len` bytes completes and the next one follows it, modulo 2^32 (R25, D7). -/
def Hart.retire (h : Hart) (len : Nat) (evs : List Nat) : Hart :=
  h.retireTo (h.pc + BitVec.ofNat 32 len) len evs

/-- `retire` for the executing hart. -/
def State.retire (s : State) (len : Nat) (evs : List Nat) : State := s.mapHart fun h => h.retire len evs

/-- `retireTo` for the executing hart. -/
def State.retireTo (s : State) (target : Word) (len : Nat) (evs : List Nat) : State :=
  s.mapHart fun h => h.retireTo target len evs

/-- `x[i] <- v` for the executing hart. -/
def State.setReg (s : State) (i : RegIdx) (v : Word) : State := s.mapHart fun h => h.setReg i v

/-- An instruction that only writes a register: `x[rd] <- v`, and the next instruction follows. -/
def State.writeBack (s : State) (len : Nat) (evs : List Nat) (rd : RegIdx) (v : Word) : State :=
  s.mapHart fun h => (h.retire len evs).setReg rd v

/-! ## Traps -/

/-- An exception: what goes to `mcause` and to `mscause` (60_exceptions.md R650). -/
structure Cause where
  mcause : Word
  mscause : BitVec 4
deriving DecidableEq, Repr

/-- R650, illegal instruction. -/
def Cause.illegal : Cause := ⟨2, 0⟩

/-- R650, `ebreak` not to Debug Mode. -/
def Cause.ebreak : Cause := ⟨3, 2⟩

/-- R650, trigger hit not to Debug Mode. -/
def Cause.trigger : Cause := ⟨3, 1⟩

/-- R650, environment call. -/
def Cause.ecall : Cause := ⟨11, 0⟩

/-- `TrapVector` (R671): the base of `mtvec`; in Vectored mode, for an interrupt, 4 times its code further. -/
def trapVector (mtvec mcause : Word) : Word :=
  let base := mtvec &&& 0xFFFFFFFC
  if mtvec.getLsbD 0 && mcause.getLsbD 31 then base + ((mcause &&& 0x7FFFFFFF) <<< 2) else base

/-- What every trap and NMI writes (R670, R692): `mepc`, `mcause`, `mscause`, `mtval`, `mstatus.MPIE` and `MIE`, the
reservation and `pc`. -/
def Hart.enterTrap (h : Hart) (epc : Word) (c : Cause) (tval target : Word) : Hart :=
  { h with
    trap := { h.trap with
      mepc := epc &&& 0xFFFFFFFE
      mcause := c.mcause
      mscause := c.mscause
      mtval := tval
      mstatusMpie := h.trap.mstatusMie
      mstatusMie := false }
    reservation := none
    pc := target }

/-- Taking an exception (R670, R671), the one operation for every synchronous cause: `mepc` is the `pc` of the instruction
(R653). Event 37 counts it; `evs` are the events of the instruction's class (R48). Events 4 to 6 count no instruction that traps, an
`ecall` or `ebreak` with its own event 20 or 19 included: the model's choice (log entry 71). -/
def Hart.exception (h : Hart) (c : Cause) (tval : Word) (evs : List Nat := []) : Hart :=
  (h.count (37 :: evs)).enterTrap h.pc c tval (trapVector h.trap.mtvec c.mcause)

/-- Taking an exception on the executing hart. -/
def State.exception (s : State) (c : Cause) (tval : Word) (evs : List Nat := []) : State :=
  s.mapHart fun h => h.exception c tval evs

/-- Taking an interrupt (R670): `mepc` is the `pc` of the instruction that would have executed next, `mtval` is 0
(R652, R653). -/
def Hart.interrupt (h : Hart) (mcause target : Word) (evs : List Nat) : Hart :=
  (h.count evs).enterTrap h.pc ⟨mcause, 0⟩ 0 target

/-- The return from a trap (R676): `MIE`, `MPIE` and `pc`, and nothing else. The reservation is not cleared by this return itself: the
list of 42_a.md R462 says what clears it, and executing the instruction `mret` is on that list (`execMret`, log entry 6). -/
def Hart.mret (h : Hart) : Hart :=
  { h with
    trap := { h.trap with
      mstatusMie := h.trap.mstatusMpie
      mstatusMpie := true }
    pc := h.trap.mepc &&& 0xFFFFFFFE }

/-- An event of the list of 42_a.md R462 clears the reservation of the hart. -/
def Hart.clearReservation (h : Hart) : Hart := { h with reservation := none }

/-! ## Debug Mode -/

/-- `dcsr.cause` values (12 R220). -/
def debugCauseEbreak : BitVec 3 := 1

/-- See `debugCauseEbreak`. -/
def debugCauseTrigger : BitVec 3 := 2

/-- See `debugCauseEbreak`. -/
def debugCauseHaltReq : BitVec 3 := 3

/-- See `debugCauseEbreak`. -/
def debugCauseStep : BitVec 3 := 4

/-- Entering Debug Mode (62 R832): `dcsr.cause`, `dpc`, the reservation, `mit_hold`, the activity, and who holds the hart
(R833): the debugger if `byDebugger`, the MPC if its halt request is pending. -/
def Hart.enterDebug (h : Hart) (cfg : Config) (cause : BitVec 3) (addr : Word) (byDebugger : Bool) : Hart :=
  { h with
    activity := .dbHalt
    reservation := none
    tim0 := { h.tim0 with hold := false }
    tim1 := { h.tim1 with hold := false }
    power := { h.power with
      mpcHaltPending := false
      pauseCount := if cfg.pauseAfterDebug then h.power.pauseCount else 0 }
    dbg := { h.dbg with
      cause := cause
      dpc := addr &&& 0xFFFFFFFE
      dbgHaltState := h.dbg.dbgHaltState || byDebugger
      mpcHaltState := h.dbg.mpcHaltState || h.power.mpcHaltPending
      stepping := false
      stepDone := false
      haltWaits := false
      brkptStatus := cause == debugCauseEbreak || cause == debugCauseTrigger } }

/-! ## Status outputs -/

/-- The output `cpu_halt_status[h]` (62 R811, R814 to R817). -/
def Hart.cpuHaltStatus (h : Hart) : Bool := decide (h.activity = .sleep)

/-- The output `debug_mode_status[h]`: in Debug Mode, in the one instruction of a single step, or on the way into Debug Mode
(62 R811, R832, R834). -/
def Hart.debugModeStatus (h : Hart) : Bool := decide (h.activity = .dbHalt) || h.dbg.stepping || h.dbg.haltWaits

end Sys2Proof.Machine
end

