-- ==== Sys2Proof/Machine/Counters.lean ====
section
/-! DEFINITION. The counters (10_state.md R43 to R48): how software names them, what a clock tick adds to each, and how a CSR
instruction writes one. -/

namespace Sys2Proof.Machine

/-- The counter `n`. -/
def Counters.hpm (c : Counters) : HpmIdx → DWord
  | .c3 => c.hpm3
  | .c4 => c.hpm4
  | .c5 => c.hpm5
  | .c6 => c.hpm6

/-- The selector `n`. -/
def Counters.sel (c : Counters) : HpmIdx → BitVec 10
  | .c3 => c.sel3
  | .c4 => c.sel4
  | .c5 => c.sel5
  | .c6 => c.sel6

/-- The counter `n` replaced. -/
def Counters.setHpm (c : Counters) (n : HpmIdx) (v : DWord) : Counters :=
  match n with
  | .c3 => { c with hpm3 := v }
  | .c4 => { c with hpm4 := v }
  | .c5 => { c with hpm5 := v }
  | .c6 => { c with hpm6 := v }

/-- The selector `n` replaced. -/
def Counters.setSel (c : Counters) (n : HpmIdx) (v : BitVec 10) : Counters :=
  match n with
  | .c3 => { c with sel3 := v }
  | .c4 => { c with sel4 := v }
  | .c5 => { c with sel5 := v }
  | .c6 => { c with sel6 := v }

/-- The counter with a name. -/
def Counters.get (c : Counters) : CounterId → DWord
  | .cycle => c.mcycle
  | .hpm n => c.hpm n

/-- The counter with a name replaced. -/
def Counters.set (c : Counters) (i : CounterId) (v : DWord) : Counters :=
  match i with
  | .cycle => { c with mcycle := v }
  | .hpm n => c.setHpm n v

/-! ## Clock ticks -/

/-- The events of Table 8-1 that the spec defines by name only (R48, last sentence). -/
def microEvents : List Nat :=
  [2, 3, 7, 8, 25, 27, 28, 29, 30, 31, 32, 34, 35, 36, 40, 41, 42, 43, 44, 45, 46, 47, 48, 50]

/-- The hart that an event belongs to: events 35 and 36 are the core's, one count for both harts (R48, scope C); hart 0 stands
for the core. -/
def eventOwner (id event : Nat) : Nat := if event = 35 ∨ event = 36 then 0 else id

/-- What one tick of hart `id` adds to a counter with the selector `sel`: the defined cycle events `evs`, or the free count of a
microarchitectural event (93 section 1, U36; log entry 12). -/
def tickCount (id : Nat) (sel : BitVec 10) (evs : List Nat) (tick fresh : Nat) : Nat :=
  if microEvents.contains sel.toNat then freeEventCount (eventOwner id sel.toNat) sel.toNat tick fresh
  else occurrences sel evs

/-- The cycle counter and the event counters after one tick in which the hart's counters are enabled. -/
def Counters.tick (c : Counters) (id : Nat) (evs : List Nat) (tick fresh : Nat) : Counters :=
  { c with
    mcycle := addUnless (c.inhibit.getLsbD 0) c.mcycle 1
    hpm3 := addUnless (c.inhibit.getLsbD 3) c.hpm3 (tickCount id c.sel3 evs tick fresh)
    hpm4 := addUnless (c.inhibit.getLsbD 4) c.hpm4 (tickCount id c.sel4 evs tick fresh)
    hpm5 := addUnless (c.inhibit.getLsbD 5) c.hpm5 (tickCount id c.sel5 evs tick fresh)
    hpm6 := addUnless (c.inhibit.getLsbD 6) c.hpm6 (tickCount id c.sel6 evs tick fresh) }

/-- The counters of the hart after one tick: cycles (events 1 and 49) where they are enabled, cycles in Sleep (event 512) in
Sleep (R43, R46, R48). -/
def Hart.tickCounters (h : Hart) (id tick fresh : Nat) : Counters :=
  if h.activity = .sleep then h.ctr.count [512]
  else if h.countersOn then h.ctr.tick id (1 :: if h.trap.mstatusMie then [] else [49]) tick fresh
  else h.ctr

/-- The counters `t` that a tick makes of `c`, but for the counter that a CSR instruction wrote in this very cycle (R44). -/
def Counters.keepWritten (c t : Counters) : Counters :=
  match c.written with
  | none => t
  | some i => t.set i (c.get i)

/-! ## Writing a counter -/

/-- Bits 31 to 0. -/
def low32 (v : DWord) : Word := v.extractLsb' 0 32

/-- Bits 63 to 32. -/
def high32 (v : DWord) : Word := v.extractLsb' 32 32

/-- Bits 31 to 0 replaced. -/
def setLow32 (v : DWord) (w : Word) : DWord := high32 v ++ w

/-- Bits 63 to 32 replaced. -/
def setHigh32 (v : DWord) (w : Word) : DWord := w ++ low32 v

/-- A write to one half of a counter, `f` what it makes of the counter: by a CSR instruction after the counter's own increment in
that cycle (R44), so the first tick of the step is taken before the write and not again; by the debugger at once. Log entry
53. -/
def Hart.writeCounter (h : Hart) (id fresh : Nat) (inDebug : Bool) (i : CounterId) (f : DWord → DWord) : Hart :=
  if inDebug then { h with ctr := h.ctr.set i (f (h.ctr.get i)) }
  else { h with ctr := { h.ctr.set i (f ((h.tickCounters id 0 fresh).get i)) with written := some i } }

end Sys2Proof.Machine
end

