-- ==== Sys2Proof/Machine/Pic.lean ====
section
/-! DEFINITION. The interrupt controller: gateways, evaluation, claim, and the memory-mapped registers (61_pic.md,
12_state_pic_debug_regs.md section 1). -/

namespace Sys2Proof.Machine

/-- A priority field as software sees it, and as a written value is stored: inverted in reverse order (R190). -/
def prioView (reverse : Bool) (v : BitVec 4) : BitVec 4 := if reverse then ~~~v else v

/-- `active(S)` (R723). -/
def Source.active (x : Source) : Bool := x.sync != x.low

/-- `req(S)` (R723). -/
def Source.req (x : Source) : Bool := if x.edge then x.ip else x.active

/-- Source `n`; sources count from 1 (R721). -/
def Pic.source? (p : Pic) (n : Nat) : Option Source :=
  match n with
  | 0 => none
  | i + 1 => p.sources[i]?

/-- The PIC with source `n` changed; nothing for a source that does not exist. -/
def Pic.mapSource (p : Pic) (n : Nat) (f : Source → Source) : Pic :=
  match n with
  | 0 => p
  | i + 1 => { p with sources := p.sources.modify i f }

/-- Some source of the group of four of source `n` is enabled (R765). -/
def Pic.groupEnabled (p : Pic) (n : Nat) : Bool :=
  p.sources.zipIdx.any fun (x, i) => (i + 1) / 4 == n / 4 && x.en

/-- The gateways see their inputs: a clocked gateway takes the pin, and latches an active request (R723). A gateway is
clocked unless `mcgc.picio` = 0 and its group of four has no enabled source (R765). -/
def Pic.clock (p : Pic) (picio : Bool) : Pic :=
  { p with sources := p.sources.mapIdx fun i x =>
      if picio || p.groupEnabled (i + 1) then { x with sync := x.pin, ip := x.ip || (x.pin != x.low) } else x }

/-- The hart a source is delivered to; hart 0 on a single-thread build (R189). -/
def Source.target (x : Source) (dual : Bool) : HartId := if dual && x.del then .t1 else .t0

/-- The source is a candidate for hart `h` (R730). -/
def Source.candidate (x : Source) (dual : Bool) (h : HartId) : Bool :=
  x.en && x.pri != 0 && (x.target dual == h) && x.req

/-- The winner among the sources from number `n` on: priority and number, the lowest number of the highest priority
(R731). -/
def bestFrom (dual : Bool) (h : HartId) : List Source → Nat → BitVec 4 × Nat → BitVec 4 × Nat
  | [], _, best => best
  | x :: rest, n, best =>
    bestFrom dual h rest (n + 1) (if x.candidate dual h && best.1.ult x.pri then (x.pri, n) else best)

/-- `maxpri(h)` and `winid(h)` (R731). -/
def Pic.best (p : Pic) (dual : Bool) (h : HartId) : BitVec 4 × Nat := bestFrom dual h p.sources 1 (0, 0)

/-- `mexintirq[h]` (R735). -/
def State.extIrq (s : State) (h : HartId) : Bool :=
  let best := (s.pic.best s.cfg.dualThread h).1
  (s.hartAt h).pic.thresh.ult best && (s.hartAt h).pic.currPri.ult best

/-- `mhwakeup[h]` (R736). -/
def State.wakeup (s : State) (h : HartId) : Bool := (s.pic.best s.cfg.dualThread h).1 == 15

/-- The capture of the winner into `meihap.claimid` and `meicidpl.clidpri` (R737). -/
def State.captureClaim (s : State) (h : HartId) : State :=
  let best := s.pic.best s.cfg.dualThread h
  s.mapHartAt h fun x => { x with pic := { x.pic with claimId := BitVec.ofNat 8 best.2, clidPri := best.1 } }

/-- Word `word` of `meipX`, or of `meitpX` when only the sources of one hart are shown (R184, R185). -/
def Pic.pendingWord (p : Pic) (word : Nat) (shown : Source → Bool) : Word :=
  BitVec.ofNat 32 ((List.range 32).foldl (fun acc y =>
    match p.source? (32 * word + y) with
    | some x => if x.req && shown x then acc + 2 ^ y else acc
    | none => acc) 0)

/-- The PIC register at offset `off` of the block, as hart `h` reads it (R181 to R189); 0 where there is none
(R180(b), D17). -/
def State.picRead (s : State) (h : HartId) (off : Nat) : Word :=
  let p := s.pic
  let idx := off / 4 % 1024
  let field (f : Source → Word) : Word :=
    match p.source? idx with
    | some x => f x
    | none => 0
  match off / 4096 with
  | 0 => field fun x => (prioView p.priord x.pri).setWidth 32
  | 1 =>
    if idx < 8 then p.pendingWord idx fun _ => true
    else if 512 ≤ idx ∧ idx < 520 ∧ s.cfg.dualThread then
      p.pendingWord (idx - 512) fun x => x.target s.cfg.dualThread == h
    else 0
  | 2 => field fun x => (BitVec.ofBool x.en).setWidth 32
  | 3 => if idx = 0 then (BitVec.ofBool p.priord).setWidth 32 else 0
  | 4 => field fun x => (BitVec.ofBool x.edge ++ BitVec.ofBool x.low).setWidth 32
  | 6 => if s.cfg.dualThread then field fun x => (BitVec.ofBool x.del).setWidth 32 else 0
  | _ => 0

/-- A word store to offset `off` of the block (R181 to R189, R724); dropped where there is no register (R180(b)). The
pending flag of a gateway configured as edge-triggered is free until it is cleared (93 U14). A store to `meigwclrS` clears the flag of a
clock-gated gateway too (log entry 36). -/
def State.picWrite (s : State) (off : Nat) (v : Word) : State :=
  let p := s.pic
  let idx := off / 4 % 1024
  let p' : Pic :=
    match off / 4096 with
    | 0 => p.mapSource idx fun x => { x with pri := prioView p.priord (v.setWidth 4) }
    | 2 => p.mapSource idx fun x => { x with en := v.getLsbD 0 }
    | 3 => if idx = 0 then { p with priord := v.getLsbD 0 } else p
    | 4 => p.mapSource idx fun x =>
        { x with
          edge := v.getLsbD 1
          low := v.getLsbD 0
          ip := if v.getLsbD 1 then freeGatewayPending idx s.env.fresh else x.ip }
    | 5 => p.mapSource idx fun x => { x with ip := x.active }
    | 6 => if s.cfg.dualThread then p.mapSource idx fun x => { x with del := v.getLsbD 0 } else p
    | _ => p
  { s with pic := p' }

/-- Some correctable-error counter is at or above its threshold (R110, R666). -/
def errorPending (r : Word) : Bool := decide (2 ^ (r.extractLsb' 27 5).toNat ≤ (r.extractLsb' 0 27).toNat)

/-- `mip.mceip`, the same for both harts (R36, R666). -/
def SharedRegs.errorIrq (c : SharedRegs) : Bool :=
  errorPending c.micect || errorPending c.miccmect || errorPending c.mdccmect

/-- The internal timer is at or above its bound in this cycle (R782). -/
def Timer.matches (t : Timer) : Bool := t.bound.ule t.cnt

/-- `mip` of hart `h` (R36). -/
def State.mip (s : State) (h : HartId) : Word :=
  let x := s.hartAt h
  0#1 ++ BitVec.ofBool s.shared.errorIrq ++ BitVec.ofBool x.tim0.matches ++ BitVec.ofBool x.tim1.matches ++ 0#16 ++
    BitVec.ofBool (s.extIrq h) ++ 0#3 ++ BitVec.ofBool (s.pins.get h).timerInt ++ 0#3 ++
    BitVec.ofBool (s.pins.get h).softInt ++ 0#3

end Sys2Proof.Machine
end

