-- ==== Sys2Proof/Machine/Bus.lean ====
section
/-! DEFINITION. The system bus as a hart uses it: the unified buffer (20_memory.md R271 to R279), the answers of the
platform (R266), and errors reported late (R320, 11 R103). -/

namespace Sys2Proof.Machine

/-- The store writes the byte at `a`. -/
def PendingStore.covers (p : PendingStore) (a : Word) : Bool := decide ((a - p.addr).toNat < p.size)

/-- The byte the store writes at `a`, an address it covers. -/
def PendingStore.byteAt (p : PendingStore) (a : Word) : Byte := byteOf p.data (a - p.addr).toNat

/-- The newest store of a buffer that writes the byte at `a`. -/
def newestAt (a : Word) : List PendingStore → Option PendingStore
  | [] => none
  | p :: rest =>
    match newestAt a rest with
    | some q => some q
    | none => if p.covers a then some p else none

/-- The byte at `a` as hart `h` sees it: of its newest waiting store, else of memory (R273). -/
def State.viewByte (s : State) (h : HartId) (a : Word) : Byte :=
  match newestAt a (s.hartAt h).buffer with
  | some p => p.byteAt a
  | none => memRead s.mem a.toNat

/-- An error response to the access `kind` at `a` (R320, 60_exceptions.md R690): the first one is captured and asks for an NMI; a
store's comes before a load's of the same clock cycle. -/
def NmiRegs.capture (n : NmiRegs) (kind : BusNmi) (a : Word) : NmiRegs :=
  if n.locked && !(decide (kind = .store) && n.loadNow) then n
  else { n with mdseac := a, locked := true, bus := some kind, loadNow := decide (kind = .load) }

/-- A bus access of hart `h` for the instruction that names `a` got an error response (R320). -/
def State.busError (s : State) (h : HartId) (kind : BusNmi) (a : Word) : State :=
  s.mapHartAt h fun x => { x with nmi := x.nmi.capture kind a }

/-- A store transaction of hart `h` reaches the bus (R266, R320). -/
def State.performStore (h : HartId) (s : State) (p : PendingStore) : State :=
  if s.busAnswers .write p.addr.toNat p.size then { s with mem := memWriteN s.mem p.addr p.data p.size }
  else s.busError h .store p.target

/-- The oldest `n` stores of hart `h` leave its buffer, in program order (R276). -/
def State.drain (s : State) (h : HartId) (n : Nat) : State :=
  match (s.hartAt h).buffer with
  | [] => s
  | p :: rest =>
    (((p :: rest).take n).foldl (State.performStore h) s).mapHartAt h fun x =>
      { x with buffer := (p :: rest).drop n }

/-- The whole buffer of hart `h` drains: what `fence` waits for (R279), what a quiescing hart does (62 R812). -/
def State.drainAll (s : State) (h : HartId) : State := s.drain h (s.hartAt h).buffer.length

/-- The `n` bytes from `a` as hart `h` sees them, as a little-endian number. -/
def State.viewN (s : State) (h : HartId) (a : Word) : Nat → Nat
  | 0 => 0
  | n + 1 => s.viewN h a n + (s.viewByte h (a + BitVec.ofNat 32 n)).toNat * 2 ^ (8 * n)

/-- How many of the `n` bytes from `a` a waiting store writes; `ok` tells which stores count. -/
def coveredBytes (b : List PendingStore) (ok : PendingStore → Bool) (a : Word) : Nat → Nat
  | 0 => 0
  | n + 1 =>
    coveredBytes b ok a n +
      (match newestAt (a + BitVec.ofNat 32 n) b with
       | some p => if ok p then 1 else 0
       | none => 0)

/-- The SoC answers a read of `n` bytes from `a`: one request for exactly those bytes, or a request for each double-word that they
touch (R271, R273, R305). -/
def State.readAnswered (s : State) (a n : Nat) (exact : Bool) : Bool :=
  if exact then s.busAnswers .read a n
  else s.busAnswers .read (a / 8 * 8) 8 && s.busAnswers .read ((a + n - 1) / 8 * 8) 8

/-- A read of `n` bytes from `a` reaches the bus (R271, R273). An error response is reported late, and the value is then free
(R320, 93 U7): `none`. -/
def State.busRead (s : State) (h : HartId) (a : Word) (n : Nat) (exact : Bool) : Option Word × State :=
  if s.readAnswered a.toNat n exact then (some (BitVec.ofNat 32 (memReadN s.mem a n)), s)
  else (none, s.busError h .load a)

/-! ## Attributes (11 R100, R101) -/

/-- A bit of region attributes where `seen` are those of the last fence and `now` those of `mrac`: free where they differ (93
U4, log entry 26). -/
def regionBit (bit : Word → Bool) (seen now : Word) (free : Bool) : Bool :=
  if bit seen == bit now then bit now else if free then bit now else bit seen

/-- A load or store of hart `h` at `a` has side effects (20_memory.md R264; R101: not in the ICCM; the DCCM and the PIC registers are
not reached by way of the bus). -/
def State.sideEffectAt (s : State) (h : HartId) (a : Nat) : Bool :=
  !inIccm s.cfg a && regionBit (fun m => sideEffect m a) (s.hartAt h).seen.data s.shared.mrac
    (freeAttribute (regionOf a) s.env.fresh)

/-- A fetch of hart `h` at `a` may use the I-cache (20_memory.md R264, R101). -/
def State.cacheableAt (s : State) (h : HartId) (a : Nat) : Bool :=
  regionBit (fun m => cacheable m a) (s.hartAt h).seen.fetch s.shared.mrac
    (freeAttribute (16 + regionOf a) s.env.fresh)

/-- The fence of hart `h` (R279): its buffer drains, and its accesses use the attributes of `mrac` from now on (R101). -/
def State.fenceOp (s : State) (h : HartId) : State :=
  (s.drainAll h).mapHartAt h fun x => { x with seen := { x.seen with data := s.shared.mrac } }

/-- A load of hart `h` from the bus: with side effects, after everything older (R271); idempotent, against the buffer: all
bytes there are forwarded, some there drain it first, none there pass it by (R273). A store with side effects is never
forwarded (R272). -/
def State.busLoad (s : State) (h : HartId) (a : Word) (n : Nat) : Option Word × State :=
  if s.sideEffectAt h a.toNat then (s.drainAll h).busRead h a n true
  else
    let b := (s.hartAt h).buffer
    if coveredBytes b (fun _ => true) a n = 0 then s.busRead h a n false
    else if coveredBytes b (fun p => !p.sideEffect) a n = n then (some (BitVec.ofNat 32 (s.viewN h a n)), s)
    else (s.drainAll h).busRead h a n false

/-- How a store of `n` bytes at `a` is cut into bus transactions (R274, R305): not at all where it is aligned; where it is not, into
bytes on AHB-Lite, and in two at the multiple of `n` inside it on AXI4 (log entry 57). -/
def storeCuts (bus : BusType) (a n : Nat) : List Nat :=
  if a % n = 0 then [n]
  else
    match bus with
    | .ahbLite => List.replicate n 1
    | .axi4 => [n - a % n, n - (n - a % n)]

/-- The bus transactions of the given sizes, one behind the other, of the store of `v` at `a`, from its byte `k` on. The lowest addresses
come first: the model's choice, log entry 76. -/
def piecesFrom (a v : Word) (se : Bool) (k : Nat) : List Nat → List PendingStore
  | [] => []
  | m :: rest => ⟨a + BitVec.ofNat 32 k, m, v >>> (8 * k), se, a⟩ :: piecesFrom a v se (k + m) rest

/-- The bus transactions of a store of the low `n` bytes of `v` to `a`. -/
def storePieces (bus : BusType) (a v : Word) (n : Nat) (se : Bool) : List PendingStore :=
  piecesFrom a v se 0 (storeCuts bus a.toNat n)

/-- A store of hart `h` to the bus enters its buffer (R272, R274). -/
def State.busStore (s : State) (h : HartId) (a v : Word) (n : Nat) : State :=
  s.mapHartAt h fun x => { x with buffer := x.buffer ++ storePieces s.cfg.bus a v n (s.sideEffectAt h a.toNat) }

end Sys2Proof.Machine
end

