-- ==== Sys2Proof/Machine/Access.lean ====
section
/-! DEFINITION. Loads, stores and atomic accesses: the checks in their order (20_memory.md R300, R310), and the access to
the DCCM, the PIC registers or the bus (R305 to R309). -/

namespace Sys2Proof.Machine

/-- The address is one of the core's own data addresses (R306). -/
def coreLocal (c : Config) (a : Nat) : Bool := inDccm c a || inPic c a

/-- The address of the aligned word that holds the byte at `a`. -/
def wordAddr (a : Nat) : Nat := a / 4 * 4

/-- The word of memory at `w` holds a byte of the `n` bytes at `a` (`n` from 1 to 4). -/
def onWord (a n w : Nat) : Bool := w == wordAddr a || w == wordAddr (a + n - 1)

/-- A word the access touches has a double-bit error (R300 step 7, R321); nothing is reported when `mfdc.cecd` is 1 (R125). A
whole aligned word store does not read the word (R307). -/
def State.eccFault (s : State) (isStore : Bool) (a n : Nat) : Bool :=
  !s.shared.mfdc.getLsbD 8 && !(isStore && n == 4 && a % 4 == 0) && s.badWords.any (onWord a n)

/-- R300 step 1 and R310: the access crosses a region boundary, or the top of the address space. -/
def crossesRegion (a n : Nat) : Bool := regionOf a != regionOf (a + n - 1)

/-- `mcause` of a misaligned access (R650). -/
def misalignedCode (isStore : Bool) : Word := if isStore then 6 else 4

/-- `mcause` of an access fault (R650). -/
def accessFaultCode (isStore : Bool) : Word := if isStore then 7 else 5

/-- The checks of R300 for `n` bytes at `a` from base `b`, first hit wins. -/
def State.accessFault (s : State) (isStore : Bool) (b a : Word) (n : Nat) : Option Cause :=
  let c := s.cfg
  let x := a.toNat
  let e := x + n - 1
  if crossesRegion x n then some ⟨misalignedCode isStore, 2⟩
  else if !dRegion c x && s.sideEffectAt s.cur x && x % n != 0 then some ⟨misalignedCode isStore, 1⟩
  else if dRegion c x && !(inDccm c x && inDccm c e) && !(inPic c x && inPic c e) then
    some ⟨accessFaultCode isStore, 2⟩
  else if !dRegion c x && !windowsAllow c.dataWindows x e then some ⟨accessFaultCode isStore, 3⟩
  else if coreLocal c b.toNat != coreLocal c x then some ⟨accessFaultCode isStore, 5⟩
  else if inPic c x && (n != 4 || x % 4 != 0) then some ⟨accessFaultCode isStore, 6⟩
  else if inDccm c x && s.eccFault isStore x n then some ⟨accessFaultCode isStore, 1⟩
  else none

/-- The `n` bytes at `a`, an access that passed its checks: the DCCM, a PIC register or the bus (R300, R307, R180); `none` after an error
response of the bus. -/
def State.readChecked (s : State) (a : Word) (n : Nat) : Option Word × State :=
  if inDccm s.cfg a.toNat then (some (BitVec.ofNat 32 (memReadN s.mem a n)), s)
  else if inPic s.cfg a.toNat then (some (s.picRead s.cur (a.toNat - picBase s.cfg)), s)
  else s.busLoad s.cur a n

/-- A store of `n` bytes at `a` touches the word at `w` (D24). -/
def touchesWord (a n : Nat) (w : Word) : Bool := decide (a < w.toNat + 4) && decide (w.toNat < a + n)

/-- The reservation of a hart after another agent stored `n` bytes at `a` (42_a.md R462 (2)). -/
def Hart.seeStore (h : Hart) (a n : Nat) : Hart :=
  match h.reservation with
  | some w => if touchesWord a n w then h.clearReservation else h
  | none => h

/-- The DCCM (or another closely-coupled memory) gets `n` bytes at `a`. Every word that it touches has fresh check bits then: a whole aligned
word comes with them (R307), and a word written in part is read, modified and written back with its ECC updated (R267). That the word was
sound before a partial store is a check of the store, which `mfdc.cecd` turns off (`eccFault`). -/
def State.ccmWrite (s : State) (a v : Word) (n : Nat) : State :=
  { s with
    mem := memWriteN s.mem a v n
    badWords := s.badWords.filter fun w => !onWord a.toNat n w }

/-- A store of the executing hart into the DCCM; the other hart's reservation sees it (R462 (2)). -/
def State.dccmStore (s : State) (a v : Word) (n : Nat) : State :=
  (s.ccmWrite a v n).mapHartAt s.cur.other fun x => x.seeStore a.toNat n

/-- The low `n` bytes of `v` to `a`, an access that passed its checks. -/
def State.writeChecked (s : State) (a v : Word) (n : Nat) : State :=
  if inDccm s.cfg a.toNat then s.dccmStore a v n
  else if inPic s.cfg a.toNat then s.picWrite (a.toNat - picBase s.cfg) v
  else s.busStore s.cur a v n

/-- The access leaves the core (R48 events 55 and 56). -/
def State.onBus (s : State) (a : Word) : Bool := !coreLocal s.cfg a.toNat

/-- The events of a committed load (R48). The model's choices (log entry 74): a misaligned load that traps is no event 13, and every load
from a bus address is an event 55, one that the buffer serves too. -/
def State.loadEvents (s : State) (a : Word) (n : Nat) : List Nat :=
  11 :: (if a.toNat % n != 0 then [13] else []) ++ (if s.onBus a then [55] else [])

/-- The events of a committed store (R48). A misaligned store that traps is no event 14 (log entry 74). -/
def State.storeEvents (s : State) (a : Word) (n : Nat) : List Nat :=
  12 :: (if a.toNat % n != 0 then [14] else []) ++ (if s.onBus a then [56] else [])

/-- What a load writes to its destination: the value read, widened by `ext`; after an error response a free value (93 U7, log entry 10). -/
def State.loadValue (s : State) (ext : Word → Word) : Option Word → Word
  | some v => ext v
  | none => freeLoadData s.env.fresh

/-- A load instruction of `len` bytes: `MemRead` of `n` bytes at `b + off`, widened by `ext` into `rd`, or the exception
(40_rv32i.md section 3). -/
def State.loadInstr (s : State) (len : Nat) (rd : RegIdx) (b off : Word) (n : Nat) (ext : Word → Word) : State :=
  let a := b + off
  match s.accessFault false b a n with
  | some c => s.exception c a
  | none => (s.readChecked a n).2.writeBack len (s.loadEvents a n) rd (s.loadValue ext (s.readChecked a n).1)

/-- A store instruction of `len` bytes: `MemWrite` of the low `n` bytes of `v` at `b + off`, or the exception
(40_rv32i.md section 4). -/
def State.storeInstr (s : State) (len : Nat) (b off v : Word) (n : Nat) : State :=
  let a := b + off
  match s.accessFault true b a n with
  | some c => s.exception c a
  | none => (s.writeChecked a v n).retire len (s.storeEvents a n)

/-! ## Atomic accesses -/

/-- The checks of R310 and 42_a.md R461 for an atomic at `a`; `isStore` for `sc.w` and `amo*.w` (D21). -/
def State.atomicFault (s : State) (isStore : Bool) (a : Word) : Option Cause :=
  let c := s.cfg
  let x := a.toNat
  let e := x + 3
  if crossesRegion x 4 then some ⟨misalignedCode isStore, 2⟩
  else if dRegion c x && !(inDccm c x && inDccm c e) && !(inPic c x && inPic c e) then
    some ⟨accessFaultCode isStore, 2⟩
  else if !dRegion c x && !windowsAllow c.dataWindows x e then some ⟨accessFaultCode isStore, 3⟩
  else if x % 4 != 0 || !inDccm c x then some ⟨accessFaultCode isStore, 7⟩
  else if s.eccFault false x 4 then some ⟨accessFaultCode isStore, 1⟩
  else none

/-- The implicit fence ahead of an atomic (R281). -/
def State.implicitFence (s : State) : State := s.fenceOp s.cur

end Sys2Proof.Machine
end

