-- ==== Sys2Proof/Machine/ICache.lean ====
section
/-! DEFINITION. The I-cache (20_memory.md R294, R296, R322; 10_state.md R64) and the diagnostic accesses to its arrays
(12_state_pic_debug_regs.md R224 to R230). -/

namespace Sys2Proof.Machine

/-- The entry of a sparse array, or `d`. -/
def assocGet {κ α : Type} [DecidableEq κ] (l : List (κ × α)) (k : κ) (d : α) : α :=
  match l with
  | [] => d
  | (k', a) :: rest => if k' = k then a else assocGet rest k d

/-- A sparse array with one entry replaced. -/
def assocSet {κ α : Type} [DecidableEq κ] (l : List (κ × α)) (k : κ) (a : α) : List (κ × α) :=
  (k, a) :: l.filter fun x => decide (x.1 ≠ k)

/-- Number of ways (R224). -/
def cacheWays (c : Config) : Nat := if c.icacheFourWay then 4 else 2

/-- Bytes of a line (R224). -/
def cacheLine (c : Config) : Nat := if c.icacheLine64 then 64 else 32

/-- Bytes of a way (R224). -/
def cacheWayBytes (c : Config) : Nat := c.icacheKb * 1024 / cacheWays c

/-- The set of an address. -/
def cacheSet (c : Config) (a : Nat) : Nat := a % cacheWayBytes c / cacheLine c

/-- The tag of an address, right-justified (R226). -/
def cacheTagOf (c : Config) (a : Nat) : BitVec 21 := BitVec.ofNat 21 (a / cacheWayBytes c)

/-- Even parity: the exclusive or of the bits. -/
def parityOf {w : Nat} (v : BitVec w) : Bool := (List.range w).foldl (fun acc i => acc != v.getLsbD i) false

/-- The check bits of a chunk: one parity bit per 16 data bits, or ECC (R224, R228). -/
def chunkCheck (c : Config) (d : DWord) : BitVec 7 :=
  if c.icacheEcc then chunkEcc d
  else 0#3 ++ BitVec.ofBool (parityOf (d.extractLsb' 48 16)) ++ BitVec.ofBool (parityOf (d.extractLsb' 32 16)) ++
    BitVec.ofBool (parityOf (d.extractLsb' 16 16)) ++ BitVec.ofBool (parityOf (d.extractLsb' 0 16))

/-- The check bits of a tag: one parity bit, or ECC (R224, R228). -/
def tagCheck (c : Config) (t : BitVec 21) : BitVec 5 :=
  if c.icacheEcc then tagEcc t else 0#4 ++ BitVec.ofBool (parityOf t)

/-- An entry that was never filled, or whose line was invalidated: it reads 0 (log entry 54). -/
def CacheTag.empty : CacheTag := ⟨0, false, 0⟩

/-- See `CacheTag.empty`. -/
def CacheChunk.empty : CacheChunk := ⟨0, 0⟩

/-- Tag and status of a way of a set. -/
def ICache.tagAt (k : ICache) (way set : Nat) : CacheTag := assocGet k.tags (way, set) .empty

/-- The chunk of a way at an eight-byte index. -/
def ICache.chunkAt (k : ICache) (way idx : Nat) : CacheChunk := assocGet k.chunks (way, idx) .empty

/-- The way of the set that holds the address. -/
def ICache.hitWay (k : ICache) (c : Config) (a : Nat) : Option Nat :=
  (List.range (cacheWays c)).find? fun w =>
    let t := k.tagAt w (cacheSet c a)
    t.valid && (t.tag == cacheTagOf c a)

/-- A tag that the array holds for the set does not fit its check bits, valid or not (R107); an entry that was never written, or whose
line was invalidated, has no error (log entry 56). -/
def ICache.tagError (k : ICache) (c : Config) (set : Nat) : Bool :=
  k.tags.any fun x => decide (x.1.2 = set) && (x.2.check != tagCheck c x.2.tag)

/-- A parity or ECC error on any tag of the set, or on the chunk fetched from way `way` (R107, R322). -/
def ICache.hasError (k : ICache) (c : Config) (a : Nat) (way : Option Nat) : Bool :=
  k.tagError c (cacheSet c a) ||
  match way with
  | some w =>
    let d := k.chunkAt w (a % cacheWayBytes c / 8)
    d.check != chunkCheck c d.data
  | none => false

/-- Every line of a set invalid (R322). -/
def ICache.invalidateSet (k : ICache) (set : Nat) : ICache :=
  { k with tags := k.tags.filter fun x => decide (x.1.2 ≠ set) }

/-- Every line invalid: `fence.i` (R280); the tags then read 0 (log entry 54). -/
def ICache.invalidateAll (k : ICache) : ICache := { k with tags := [] }

/-- `fence.i` of hart `h` (R280, R101): a fence, every line invalid, and the next fetch uses the attributes of `mrac`. -/
def State.fenceIOp (s : State) (h : HartId) : State :=
  { (s.fenceOp h).mapHartAt h fun x => { x with seen := { x.seen with fetch := s.shared.mrac } } with
    icache := s.icache.invalidateAll }

/-- Pseudo-LRU bits as the array holds them: one bit in a two-way cache (12 R226). -/
def lruBits (c : Config) (v : BitVec 3) : BitVec 3 := if c.icacheFourWay then v else v &&& 1

/-- The way a line fill replaces: an invalid one, else a free choice (log entry 17). -/
def ICache.victim (k : ICache) (c : Config) (a fresh : Nat) : Nat :=
  match (List.range (cacheWays c)).find? fun w => !(k.tagAt w (cacheSet c a)).valid with
  | some w => w
  | none => (freeVictim fresh).val % cacheWays c

/-- The eight bytes of memory from `a`. -/
def memReadDWord (m : List Host.Cell) (a : Nat) : DWord := BitVec.ofNat 64 (memReadN m (BitVec.ofNat 32 a) 8)

/-- The line that holds `a`, filled from memory (R294). -/
def ICache.fill (k : ICache) (c : Config) (m : List Host.Cell) (a fresh : Nat) : ICache :=
  let way := k.victim c a fresh
  let base := a / cacheLine c * cacheLine c
  let idx := base % cacheWayBytes c / 8
  { tags := assocSet k.tags (way, cacheSet c a) ⟨cacheTagOf c a, true, tagCheck c (cacheTagOf c a)⟩
    chunks := (List.range (cacheLine c / 8)).foldl (fun l i =>
      assocSet l (way, idx + i)
        ⟨memReadDWord m (base + 8 * i), chunkCheck c (memReadDWord m (base + 8 * i))⟩) k.chunks
    lru := assocSet k.lru (cacheSet c a) (lruBits c (freeLru fresh)) }

/-- One more counted error: 27 bits, wrapping (R110). -/
def bumpErrors (r : Word) : Word := r.extractLsb' 27 5 ++ (r.extractLsb' 0 27 + 1)

/-- The parcel at the even offset of `a` in its chunk. -/
def CacheChunk.parcel (d : CacheChunk) (a : Nat) : BitVec 16 := d.data.extractLsb' (8 * (a % 8)) 16

/-- A fetch of the parcel at `a` by way of the I-cache (R294, R322). The caller has checked that the platform answers the
whole line with memory. -/
def State.cacheFetch (s : State) (a : Nat) : BitVec 16 × State :=
  let k := s.icache
  let way := k.hitWay s.cfg a
  let fromMemory : BitVec 16 := BitVec.ofNat 16 (memReadN s.mem (BitVec.ofNat 32 a) 2)
  if k.hasError s.cfg a way then
    let k' := k.invalidateSet (cacheSet s.cfg a)
    (fromMemory,
      { s with
        shared := { s.shared with micect := bumpErrors s.shared.micect }
        icache := k'.fill s.cfg s.mem a s.env.fresh })
  else
    match way with
    | some w =>
      ((k.chunkAt w (a % cacheWayBytes s.cfg / 8)).parcel a,
        { s with icache := { k with lru := assocSet k.lru (cacheSet s.cfg a) (lruBits s.cfg (freeLru s.env.fresh)) } })
    | none => (fromMemory, { s with icache := k.fill s.cfg s.mem a s.env.fresh })

/-! ## Diagnostic accesses -/

/-- The way `dicawics` selects (R225). -/
def diagWay (c : Config) (w : Word) : Nat :=
  if c.icacheFourWay then (w.extractLsb' 20 2).toNat else (w.extractLsb' 20 1).toNat

/-- The bits of `dicawics` that are there (R225): `way[21]` is reserved in a two-way cache, so it is hardwired 0 (R13). -/
def dicawicsMask (c : Config) : Word := if c.icacheFourWay then 0x0131FFF8 else 0x0111FFF8

/-- The bits of `dicawics.index`, which is not WARL, that must be 0 are 0 (R225). -/
def diagInRange (c : Config) (w : Word) : Bool := decide ((w.extractLsb' 3 14).toNat * 8 < cacheWayBytes c)

/-- The eight-byte index `dicawics` selects; a free one when bits that must be 0 are set (93 U25). -/
def diagIndex (c : Config) (w : Word) (fresh : Nat) : Nat :=
  if diagInRange c w then (w.extractLsb' 3 14).toNat
  else (freeDiagPlace fresh).toNat % (cacheWayBytes c / 8)

/-- A read of `dicago`: what `dicawics` selects goes to `dicad0`, `dicad0h` and `dicad1` (R226 to R229). A read of the tag array
leaves `dicad0h`, and 0 in the unused bits of `dicad0` (log entry 56). -/
def State.diagRead (s : State) (h : HartId) : State :=
  let d := (s.hartAt h).diag
  let way := diagWay s.cfg d.dicawics
  let idx := diagIndex s.cfg d.dicawics s.env.fresh
  if !s.cfg.icacheEnable then s
  else if d.dicawics.getLsbD 24 then
    let set := idx * 8 / cacheLine s.cfg
    let t := s.icache.tagAt way set
    let lru := assocGet s.icache.lru set 0
    s.mapHartAt h fun x => { x with diag := { x.diag with
      dicad0 := t.tag ++ 0#4 ++ lru ++ 0#3 ++ BitVec.ofBool t.valid
      dicad1 := t.check.setWidth 32 } }
  else
    let k := s.icache.chunkAt way idx
    s.mapHartAt h fun x => { x with diag := { x.diag with
      dicad0 := k.data.extractLsb' 0 32
      dicad0h := k.data.extractLsb' 32 32
      dicad1 := k.check.setWidth 32 } }

/-- A write of 1 to `dicago.go`: `dicad0`, `dicad0h` and `dicad1` go to what `dicawics` selects (R226 to R229).
All 21 bits of a tag are stored (log entry 56). -/
def State.diagWrite (s : State) (h : HartId) : State :=
  let d := (s.hartAt h).diag
  let way := diagWay s.cfg d.dicawics
  let idx := diagIndex s.cfg d.dicawics s.env.fresh
  if !s.cfg.icacheEnable then s
  else if d.dicawics.getLsbD 24 then
    let set := idx * 8 / cacheLine s.cfg
    { s with icache := { s.icache with
      tags := assocSet s.icache.tags (way, set)
        ⟨d.dicad0.extractLsb' 11 21, d.dicad0.getLsbD 0,
          if s.cfg.icacheEcc then d.dicad1.extractLsb' 0 5 else (d.dicad1.extractLsb' 0 1).setWidth 5⟩
      lru := assocSet s.icache.lru set (lruBits s.cfg (d.dicad0.extractLsb' 4 3)) } }
  else
    { s with icache := { s.icache with
      chunks := assocSet s.icache.chunks (way, idx)
        ⟨d.dicad0h ++ d.dicad0,
          if s.cfg.icacheEcc then d.dicad1.extractLsb' 0 7 else (d.dicad1.extractLsb' 0 4).setWidth 7⟩ } }

end Sys2Proof.Machine
end

