-- ==== Sys2Proof/Machine/Csr.lean ====
section
/-! DEFINITION. The control and status registers: which addresses exist (10_state.md R27 to R30), what each reads and
what a write to each does (R31 to R47; 11_state_custom_csrs.md; 12_state_pic_debug_regs.md sections 2 to 5). -/

namespace Sys2Proof.Machine

/-- The registers of R27, R28 and R29; `zero` stands for the counters and selectors hardwired to 0 (R29). -/
inductive Csr where
  | mstatus | misa | mie | mtvec | mcountinhibit | mhpmevent (n : HpmIdx)
  | mscratch | mepc | mcause | mtval | mip
  | tselect | tdata1 | tdata2 | dcsr | dpc
  | mcycle | minstret | mhpmcounter (n : HpmIdx) | mcycleh | minstreth | mhpmcounterh (n : HpmIdx)
  | mvendorid | marchid | mimpid | mhartid | zero
  | mrac | mcpc | dmst | mpmc | dicawics | dicad0 | dicad1 | dicago | dicad0h
  | mfdht | mfdhs | mitcnt0 | mitb0 | mitctl0 | mitcnt1 | mitb1 | mitctl1
  | micect | miccmect | mdccmect | mcgc | mfdc | mhartstart | mnmipdel | mscause | mdeau
  | meivt | meipt | meicpct | meicidpl | meicurpl | mdseac | mhartnum | meihap
deriving DecidableEq, Repr

/-- Tables 13-1 and 13-2 (R27). -/
def standardCsrs : List (Nat × Csr) :=
  [(0x300, .mstatus), (0x301, .misa), (0x304, .mie), (0x305, .mtvec), (0x320, .mcountinhibit),
   (0x323, .mhpmevent .c3), (0x324, .mhpmevent .c4), (0x325, .mhpmevent .c5), (0x326, .mhpmevent .c6),
   (0x340, .mscratch), (0x341, .mepc), (0x342, .mcause), (0x343, .mtval), (0x344, .mip),
   (0x7A0, .tselect), (0x7A1, .tdata1), (0x7A2, .tdata2), (0x7B0, .dcsr), (0x7B1, .dpc),
   (0xB00, .mcycle), (0xB02, .minstret),
   (0xB03, .mhpmcounter .c3), (0xB04, .mhpmcounter .c4), (0xB05, .mhpmcounter .c5), (0xB06, .mhpmcounter .c6),
   (0xB80, .mcycleh), (0xB82, .minstreth),
   (0xB83, .mhpmcounterh .c3), (0xB84, .mhpmcounterh .c4), (0xB85, .mhpmcounterh .c5), (0xB86, .mhpmcounterh .c6),
   (0xF11, .mvendorid), (0xF12, .marchid), (0xF13, .mimpid), (0xF14, .mhartid)]

/-- Table 13-3 (R28). -/
def customCsrs : List (Nat × Csr) :=
  [(0x7C0, .mrac), (0x7C2, .mcpc), (0x7C4, .dmst), (0x7C6, .mpmc), (0x7C8, .dicawics), (0x7C9, .dicad0),
   (0x7CA, .dicad1), (0x7CB, .dicago), (0x7CC, .dicad0h), (0x7CE, .mfdht), (0x7CF, .mfdhs),
   (0x7D2, .mitcnt0), (0x7D3, .mitb0), (0x7D4, .mitctl0), (0x7D5, .mitcnt1), (0x7D6, .mitb1), (0x7D7, .mitctl1),
   (0x7F0, .micect), (0x7F1, .miccmect), (0x7F2, .mdccmect), (0x7F8, .mcgc), (0x7F9, .mfdc),
   (0x7FC, .mhartstart), (0x7FE, .mnmipdel), (0x7FF, .mscause), (0xBC0, .mdeau),
   (0xBC8, .meivt), (0xBC9, .meipt), (0xBCA, .meicpct), (0xBCB, .meicidpl), (0xBCC, .meicurpl),
   (0xFC0, .mdseac), (0xFC4, .mhartnum), (0xFC8, .meihap)]

/-- The event counters and selectors 7 to 31 (R29). -/
def hardwiredZero (a : Nat) : Bool :=
  (decide (0x327 ≤ a) && decide (a ≤ 0x33F)) || (decide (0xB07 ≤ a) && decide (a ≤ 0xB1F)) ||
    (decide (0xB87 ≤ a) && decide (a ≤ 0xB9F))

/-- An entry of a register table. -/
def tableFind (a : Nat) : List (Nat × Csr) → Option Csr
  | [] => none
  | (k, r) :: rest => if a = k then some r else tableFind a rest

/-- The register at an address (R27 to R29). -/
def csrOf (a : BitVec 12) : Option Csr :=
  if hardwiredZero a.toNat then some .zero
  else
    match tableFind a.toNat standardCsrs with
    | some r => some r
    | none => tableFind a.toNat customCsrs

/-- Accessible in Debug Mode only (R30(b)). -/
def Csr.debugOnly : Csr → Bool
  | .dcsr | .dpc | .dmst | .dicawics | .dicad0 | .dicad1 | .dicago | .dicad0h => true
  | _ => false

/-- Read-only by its address (R30(c)). -/
def csrReadOnly (a : BitVec 12) : Bool := a.extractLsb' 10 2 == 0b11

/-- The register that an access may use; none when it is illegal (R30): no such register, a Debug Mode register outside
Debug Mode, a write to a read-only one, or `meicpct` beside the fast interrupt redirect (R203). -/
def csrAccess (c : Config) (a : BitVec 12) (isWrite inDebug : Bool) : Option Csr :=
  match csrOf a with
  | none => none
  | some r =>
    if (r.debugOnly && !inDebug) || (isWrite && csrReadOnly a) || (r == .meicpct && c.fastRedirect) then none
    else some r

/-! ## Reading -/

/-- `mstatus` (R31). -/
def TrapRegs.mstatus (t : TrapRegs) : Word :=
  0x1800 ||| (BitVec.ofBool t.mstatusMpie ++ 0#3 ++ BitVec.ofBool t.mstatusMie ++ 0#3).setWidth 32

/-- `mitctl` (R117). -/
def Timer.ctl (t : Timer) : Word :=
  (BitVec.ofBool t.cascade ++ BitVec.ofBool t.pauseEn ++ BitVec.ofBool t.haltEn ++
    BitVec.ofBool t.enable).setWidth 32

/-- `tdata1` (R216). -/
def Trigger.tdata1 (t : Trigger) : Word :=
  2#4 ++ BitVec.ofBool t.dmode ++ 31#6 ++ BitVec.ofBool t.hit ++ BitVec.ofBool t.select ++ 0#6 ++
    BitVec.ofBool t.action ++ BitVec.ofBool t.chain ++ 0#3 ++ BitVec.ofBool t.napot ++ BitVec.ofBool t.m ++ 0#3 ++
    BitVec.ofBool t.execute ++ BitVec.ofBool t.store ++ BitVec.ofBool t.load

/-- An NMI is pending (R63). -/
def NmiRegs.pending (n : NmiRegs) : Bool := n.pin || n.bus.isSome

/-- `dcsr` (R220). -/
def Hart.dcsr (h : Hart) : Word :=
  let d := h.dbg
  4#4 ++ 0#12 ++ BitVec.ofBool d.ebreakm ++ 0#3 ++ BitVec.ofBool d.stepie ++ BitVec.ofBool d.stopcount ++ 0#1 ++
    d.cause ++ 0#2 ++ BitVec.ofBool h.nmi.pending ++ BitVec.ofBool d.step ++ 3#2

/-- The selected trigger (R215). -/
def Triggers.selected (t : Triggers) : Trigger :=
  if t.tselect = 0 then t.tr0 else if t.tselect = 1 then t.tr1 else if t.tselect = 2 then t.tr2 else t.tr3

/-- The selected trigger replaced. -/
def Triggers.setSelected (t : Triggers) (x : Trigger) : Triggers :=
  if t.tselect = 0 then { t with tr0 := x }
  else if t.tselect = 1 then { t with tr1 := x }
  else if t.tselect = 2 then { t with tr2 := x }
  else { t with tr3 := x }

/-- What hart `h` reads from a register. -/
def State.csrRead (s : State) (h : HartId) (r : Csr) : Word :=
  let x := s.hartAt h
  let view (v : BitVec 4) : Word := (prioView s.pic.priord v).setWidth 32
  match r with
  | .mstatus => x.trap.mstatus
  | .misa => if atomicsBuilt s.cfg then 0x40001105 else 0x40001104
  | .mie => x.trap.mie
  | .mtvec => x.trap.mtvec
  | .mcountinhibit => x.ctr.inhibit.setWidth 32
  | .mhpmevent n => (x.ctr.sel n).setWidth 32
  | .mscratch => x.trap.mscratch
  | .mepc => x.trap.mepc
  | .mcause => x.trap.mcause
  | .mtval => x.trap.mtval
  | .mip => s.mip h
  | .tselect => x.trig.tselect.setWidth 32
  | .tdata1 => x.trig.selected.tdata1
  | .tdata2 => x.trig.selected.tdata2
  | .dcsr => x.dcsr
  | .dpc => x.dbg.dpc
  | .mcycle => low32 x.ctr.mcycle
  | .minstret => low32 x.ctr.minstret
  | .mhpmcounter n => low32 (x.ctr.hpm n)
  | .mcycleh => high32 x.ctr.mcycle
  | .minstreth => high32 x.ctr.minstret
  | .mhpmcounterh n => high32 (x.ctr.hpm n)
  | .mvendorid => 0x45
  | .marchid => 0x11
  | .mimpid => 3
  | .mhartid => s.cfg.coreId ++ BitVec.ofNat 4 h.number
  | .zero => 0
  | .mrac => s.shared.mrac
  | .mcpc => 0
  | .dmst => 0
  | .mpmc => (BitVec.ofBool x.power.haltie ++ 0#1).setWidth 32
  | .dicawics => x.diag.dicawics
  | .dicad0 => x.diag.dicad0
  | .dicad1 => x.diag.dicad1
  | .dicago => 0
  | .dicad0h => x.diag.dicad0h
  | .mfdht => s.shared.mfdht.setWidth 32
  | .mfdhs => x.dbg.mfdhs.setWidth 32
  | .mitcnt0 => x.tim0.cnt
  | .mitb0 => x.tim0.bound
  | .mitctl0 => x.tim0.ctl
  | .mitcnt1 => x.tim1.cnt
  | .mitb1 => x.tim1.bound
  | .mitctl1 => x.tim1.ctl
  | .micect => s.shared.micect
  | .miccmect => s.shared.miccmect
  | .mdccmect => s.shared.mdccmect
  | .mcgc => s.shared.mcgc.setWidth 32
  | .mfdc => s.shared.mfdc
  | .mhartstart => (BitVec.ofBool s.shared.start1 ++ 1#1).setWidth 32
  | .mnmipdel => s.shared.mnmipdel.setWidth 32
  | .mscause => x.trap.mscause.setWidth 32
  | .mdeau => 0
  | .meivt => x.pic.vecBase ++ 0#10
  | .meipt => view x.pic.thresh
  | .meicpct => 0
  | .meicidpl => view x.pic.clidPri
  | .meicurpl => view x.pic.currPri
  | .mdseac => x.nmi.mdseac
  | .mhartnum => if s.cfg.dualThread then 2 else 1
  | .meihap => x.pic.vecBase ++ x.pic.claimId ++ 0#2

/-! ## Writing -/

/-- `mcause` values that hardware writes (R41, R650). -/
def legalCauses : List Word :=
  [0, 1, 2, 3, 4, 5, 6, 7, 11, 0x80000003, 0x80000007, 0x8000000B, 0x8000001C, 0x8000001D, 0x8000001E,
   0xF0000000, 0xF0000001, 0xF0001000, 0xF0001001, 0xF0001002]

/-- The event selector a written value is stored as (R47). -/
def legalEvent (v : Word) : BitVec 10 :=
  let n := v.toNat
  if n ≤ 32 ∨ (34 ≤ n ∧ n ≤ 56) ∨ (512 ≤ n ∧ n ≤ 516) then v.setWidth 10 else 0

/-- `mrac` as stored: a pair 11 becomes 10 (R100). -/
def legalMrac (v : Word) : Word := v &&& ~~~((v &&& 0xAAAAAAAA) >>> 1)

/-- An error counter as stored: a threshold above 26 becomes 26 (R107). -/
def legalErrorCounter (v : Word) : Word :=
  (if (26#5).ult (v.extractLsb' 27 5) then 26#5 else v.extractLsb' 27 5) ++ v.extractLsb' 0 27

/-- A written `tdata1` (R217) for the selected trigger. `prev` and `next` are the neighbours, where there are any; `even`
tells triggers 0 and 2. -/
def Trigger.writeControl (t : Trigger) (w : Word) (inDebug even : Bool) (prev next : Option Trigger) : Trigger :=
  let dmode := if inDebug then w.getLsbD 27 else t.dmode
  let chained := match prev with
    | some p => p.chain && !p.dmode
    | none => false
  let nextDmode := match next with
    | some n => n.dmode
    | none => false
  if !inDebug && t.dmode then t
  else if inDebug && dmode && chained then t
  else
    { t with
      dmode := dmode
      hit := w.getLsbD 20
      select := w.getLsbD 19
      action := w.getLsbD 12
      chain := even && w.getLsbD 11 && !(!dmode && nextDmode)
      napot := w.getLsbD 7
      m := w.getLsbD 6
      execute := !w.getLsbD 19 && w.getLsbD 2
      store := w.getLsbD 1
      load := !w.getLsbD 19 && w.getLsbD 0 }

/-- A write to `tdata1` (R217). -/
def Triggers.writeControl (t : Triggers) (w : Word) (inDebug : Bool) : Triggers :=
  if t.tselect = 0 then { t with tr0 := t.tr0.writeControl w inDebug true none (some t.tr1) }
  else if t.tselect = 1 then { t with tr1 := t.tr1.writeControl w inDebug false (some t.tr0) (some t.tr2) }
  else if t.tselect = 2 then { t with tr2 := t.tr2.writeControl w inDebug true none (some t.tr3) }
  else { t with tr3 := t.tr3.writeControl w inDebug false (some t.tr2) none }

/-- A write to `tdata2` (R218). -/
def Triggers.writeValue (t : Triggers) (w : Word) (inDebug : Bool) : Triggers :=
  if !inDebug && t.selected.dmode then t else t.setSelected { t.selected with tdata2 := w }

/-- A write to `mitcnt` (R783): the counter takes the value, and its next clock cycle leaves it there. -/
def Timer.writeCount (t : Timer) (w : Word) : Timer :=
  { t with
    cnt := w
    written := some (match t.written with
      | some m => m
      | none => t.matches) }

/-- A write to `mitctl` (R117). -/
def Timer.writeCtl (t : Timer) (w : Word) (hasCascade : Bool) : Timer :=
  { t with
    enable := w.getLsbD 0
    haltEn := w.getLsbD 1
    pauseEn := w.getLsbD 2
    cascade := hasCascade && w.getLsbD 3 }

/-- Starting hart 1 (62 R800, 70 R862): all its state as after reset, Running, or DbHalt when the MPC or the debugger
asks for it. Its internal timers stand at 0 until its first instruction (log entry 55). -/
def State.startHart1 (s : State) : State :=
  if s.cfg.dualThread && !s.shared.start1 then
    { s with
      shared := { s.shared with start1 := true }
      harts := s.harts.set .t1
        { Hart.outOfReset s.cfg s.cfg.mpcResetRun1 (s.dm.haltReq.get .t1) with
          seen := ⟨s.shared.mrac, s.shared.mrac⟩
          starting := true
          nmi := (s.hartAt .t1).nmi
          power := { PowerRegs.reset with
            pmuHaltPending := (s.hartAt .t1).power.pmuHaltPending
            mpcHaltPending := (s.hartAt .t1).power.mpcHaltPending } } }
  else s

/-- A hart goes to Sleep after it has quiesced (62 R812, R815). -/
def State.enterSleep (s : State) (h : HartId) : State :=
  (s.drainAll h).mapHartAt h fun x => { x with activity := .sleep, reservation := none }

/-- A write of `w` to `mpmc` (R120, 62 R815). -/
def State.writeMpmc (s : State) (h : HartId) (w : Word) (inDebug : Bool) : State :=
  let s1 := s.mapHartAt h fun x => { x with power := { x.power with haltie := w.getLsbD 1 } }
  if w.getLsbD 0 && !inDebug && !(s.hartAt h).dbg.stepping then
    (s1.mapHartAt h fun x =>
      { x with trap := { x.trap with mstatusMie := w.getLsbD 1 || x.trap.mstatusMie } }).enterSleep h
  else s1

/-- A write of `w` to `mcpc` (R121, 62 R820; 92 parameter `STEP_PAUSE`). -/
def Hart.writeMcpc (x : Hart) (cfg : Config) (w : Word) : Hart :=
  if x.dbg.stepping && !cfg.stepPause then x else { x with power := { x.power with pauseCount := w } }

/-- A write of `w` to `dmst` (R102). -/
def State.writeDmst (s : State) (h : HartId) (w : Word) : State :=
  if w.getLsbD 0 then s.fenceIOp h else if w.getLsbD 1 then s.fenceOp h else s

/-- `mnmipdel` as stored (R113): the last enabled bit cannot be cleared. -/
def writeNmiDel (old : BitVec 2) (w : Word) (dual : Bool) : BitVec 2 :=
  let v := w.setWidth 2 &&& (if dual then 3 else 1)
  if v = 0 then old else v

/-- A write of `w` by hart `h` to a register. `dicad1` keeps the bits that the data array uses, whatever array `dicawics` selects (log entry
75). -/
def State.csrWrite (s : State) (h : HartId) (r : Csr) (w : Word) (inDebug : Bool) : State :=
  let on := s.mapHartAt h
  let trap (f : TrapRegs → TrapRegs) : State := on fun x => { x with trap := f x.trap }
  let ctr (f : Counters → Counters) : State := on fun x => { x with ctr := f x.ctr }
  let counter (i : CounterId) (f : DWord → DWord) : State :=
    on fun x => x.writeCounter h.number s.env.fresh inDebug i f
  let tim0 (f : Timer → Timer) : State := on fun x => { x with tim0 := f x.tim0 }
  let tim1 (f : Timer → Timer) : State := on fun x => { x with tim1 := f x.tim1 }
  let diag (f : CacheDiag → CacheDiag) : State := on fun x => { x with diag := f x.diag }
  let pic (f : HartPic → HartPic) : State := on fun x => { x with pic := f x.pic }
  let shared (f : SharedRegs → SharedRegs) : State := { s with shared := f s.shared }
  match r with
  | .mstatus => trap fun t => { t with mstatusMie := w.getLsbD 3, mstatusMpie := w.getLsbD 7 }
  | .mie => trap fun t => { t with mie := w &&& 0x70000888 }
  | .mtvec => trap fun t => { t with mtvec := w &&& 0xFFFFFFFD }
  | .mcountinhibit => ctr fun c => { c with inhibit := w.setWidth 7 &&& 0x7D }
  | .mhpmevent n => ctr fun c => c.setSel n (legalEvent w)
  | .mscratch => trap fun t => { t with mscratch := w }
  | .mepc => trap fun t => { t with mepc := w &&& 0xFFFFFFFE }
  | .mcause => trap fun t => { t with mcause := if legalCauses.contains w then w else freeMcause s.env.fresh }
  | .mtval => trap fun t => { t with mtval := w }
  | .tselect => on fun x => { x with trig := { x.trig with tselect := w.setWidth 2 } }
  | .tdata1 => on fun x => { x with trig := x.trig.writeControl w inDebug }
  | .tdata2 => on fun x => { x with trig := x.trig.writeValue w inDebug }
  | .dcsr => on fun x => { x with dbg := { x.dbg with
      ebreakm := w.getLsbD 15, stepie := w.getLsbD 11, stopcount := w.getLsbD 10, step := w.getLsbD 2 } }
  | .dpc => on fun x => { x with dbg := { x.dbg with dpc := w &&& 0xFFFFFFFE } }
  | .mcycle => counter .cycle fun v => setLow32 v w
  | .minstret => ctr fun c => { c with minstret := setLow32 c.minstret w }
  | .mhpmcounter n => counter (.hpm n) fun v => setLow32 v w
  | .mcycleh => counter .cycle fun v => setHigh32 v w
  | .minstreth => ctr fun c => { c with minstret := setHigh32 c.minstret w }
  | .mhpmcounterh n => counter (.hpm n) fun v => setHigh32 v w
  | .mrac => shared fun c => { c with mrac := legalMrac w }
  | .mcpc => on fun x => x.writeMcpc s.cfg w
  | .dmst => s.writeDmst h w
  | .mpmc => s.writeMpmc h w inDebug
  | .dicawics => diag fun d => { d with dicawics := w &&& dicawicsMask s.cfg }
  | .dicad0 => diag fun d => { d with dicad0 := w }
  | .dicad0h => diag fun d => { d with dicad0h := w }
  | .dicad1 => diag fun d => { d with dicad1 := w &&& (if s.cfg.icacheEcc then 0x7F else 0xF) }
  | .dicago => if w.getLsbD 0 then s.diagWrite h else s
  | .mfdht => shared fun c => { c with mfdht := w.setWidth 6 }
  | .mfdhs => on fun x => { x with dbg := { x.dbg with mfdhs := w.setWidth 2 } }
  | .mitcnt0 => tim0 fun t => t.writeCount w
  | .mitb0 => tim0 fun t => { t with bound := w }
  | .mitctl0 => tim0 fun t => t.writeCtl w false
  | .mitcnt1 => tim1 fun t => t.writeCount w
  | .mitb1 => tim1 fun t => { t with bound := w }
  | .mitctl1 => tim1 fun t => t.writeCtl w true
  | .micect => shared fun c => { c with micect := legalErrorCounter w }
  | .miccmect => shared fun c => { c with miccmect := legalErrorCounter w }
  | .mdccmect => shared fun c => { c with mdccmect := legalErrorCounter w }
  | .mcgc => shared fun c => { c with mcgc := w.setWidth 10 }
  | .mfdc => shared fun c => { c with mfdc := w &&& 0x00071D4D }
  | .mhartstart => if w.getLsbD 1 then s.startHart1 else s
  | .mnmipdel => shared fun c => { c with mnmipdel := writeNmiDel c.mnmipdel w s.cfg.dualThread }
  | .mscause => trap fun t => { t with mscause := w.setWidth 4 }
  | .mdeau => on fun x => { x with nmi := { x.nmi with locked := false } }
  | .meivt => pic fun p => { p with vecBase := w.extractLsb' 10 22 }
  | .meipt => pic fun p => { p with thresh := prioView s.pic.priord (w.setWidth 4) }
  | .meicpct => s.captureClaim h
  | .meicidpl => pic fun p => { p with clidPri := prioView s.pic.priord (w.setWidth 4) }
  | .meicurpl => pic fun p => { p with currPri := prioView s.pic.priord (w.setWidth 4) }
  | .misa | .mip | .zero | .mvendorid | .marchid | .mimpid | .mhartid | .mdseac | .mhartnum | .meihap => s

end Sys2Proof.Machine
end

