-- ==== Sys2Proof/Machine/Operands.lean ====
section
/-! DEFINITION. Operands: the immediates of every format as 32-bit values (30_encoding.md R363, R371), the registers of
compressed fields (R370), and the shapes of instruction the meanings share. -/

namespace Sys2Proof.Machine

/-! ## Immediates -/

/-- `immI` and `immS` (R363). -/
def sext12 (imm : BitVec 12) : Word := imm.signExtend 32

/-- `immB`, from its bits 12 to 1 (R363). -/
def branchOffset (imm : BitVec 12) : Word := (imm ++ 0#1).signExtend 32

/-- `immU`, from its bits 31 to 12 (R363). -/
def upperImm (imm : BitVec 20) : Word := imm ++ 0#12

/-- `immJ`, from its bits 20 to 1 (R363). -/
def jumpOffset (imm : BitVec 20) : Word := (imm ++ 0#1).signExtend 32

/-- The 6-bit immediate of `c.addi`, `c.li`, `c.andi` (R371). -/
def sext6 (imm : BitVec 6) : Word := imm.signExtend 32

/-- The immediate of `c.lui`, from its bits 17 to 12 (R371). -/
def cLuiImm (imm : BitVec 6) : Word := (imm ++ 0#12).signExtend 32

/-- The immediate of `c.addi16sp`, from its bits 9 to 4 (R371). -/
def cAddi16spImm (imm : BitVec 6) : Word := (imm ++ 0#4).signExtend 32

/-- The immediate of `c.addi4spn`, from its bits 9 to 2 (R371). -/
def cAddi4spnImm (imm : BitVec 8) : Word := (imm ++ 0#2).setWidth 32

/-- The offset of `c.lw` and `c.sw`, from its bits 6 to 2 (R371). -/
def cWordOffset (imm : BitVec 5) : Word := (imm ++ 0#2).setWidth 32

/-- The offset of `c.lwsp` and `c.swsp`, from its bits 7 to 2 (R371). -/
def cStackOffset (imm : BitVec 6) : Word := (imm ++ 0#2).setWidth 32

/-- The offset of `c.j` and `c.jal`, from its bits 11 to 1 (R371). -/
def cJumpOffset (imm : BitVec 11) : Word := (imm ++ 0#1).signExtend 32

/-- The offset of `c.beqz` and `c.bnez`, from its bits 8 to 1 (R371). -/
def cBranchOffset (imm : BitVec 8) : Word := (imm ++ 0#1).signExtend 32

/-- The register of a three-bit field: 8 and the field (R370). -/
def cReg (r : CReg) : RegIdx := 0b01#2 ++ r

/-- The stack pointer `x2` (R368). -/
def sp : RegIdx := 2

/-- The link register `x1` (R368). -/
def ra : RegIdx := 1

/-! ## Widening of loaded values (40_rv32i.md section 3) -/

/-- `sext_8`. -/
def sext8 (v : Word) : Word := (v.extractLsb' 0 8).signExtend 32

/-- `sext_16`. -/
def sext16 (v : Word) : Word := (v.extractLsb' 0 16).signExtend 32

/-- `zext_8`. -/
def zext8 (v : Word) : Word := (v.extractLsb' 0 8).setWidth 32

/-- `zext_16`. -/
def zext16 (v : Word) : Word := (v.extractLsb' 0 16).setWidth 32

/-! ## Shapes of instruction -/

/-- Event class of the integer operations: "alus committed" (10_state.md R48 event 15). -/
def aluEvents : List Nat := [15]

/-- Event class of the bit-manipulation instructions (R48 event 54, 45 R550(e)). -/
def bitmanipEvents : List Nat := [54]

/-- A register-register operation: `x[rd] <- f x[rs1] x[rs2]`. -/
def State.opReg (s : State) (evs : List Nat) (rd rs1 rs2 : RegIdx) (f : Word → Word → Word) : State :=
  s.writeBack 4 evs rd (f (s.reg rs1) (s.reg rs2))

/-- A register-immediate or unary operation of `len` bytes: `x[rd] <- f x[rs1]`. -/
def State.opImm (s : State) (len : Nat) (evs : List Nat) (rd rs1 : RegIdx) (f : Word → Word) : State :=
  s.writeBack len evs rd (f (s.reg rs1))

/-- A jump of `len` bytes: the link value goes to `rd`, the next instruction is at `target` (R403, R404). An unconditional jump counts
in no class of 10_state.md R48 (log entry 8). -/
def State.jump (s : State) (len : Nat) (rd : RegIdx) (target : Word) : State :=
  let link := s.pc + BitVec.ofNat 32 len
  (s.retireTo target len []).setReg rd link

/-- A conditional branch of `len` bytes (40_rv32i.md section 2; R48 events 24 and 26). -/
def State.branch (s : State) (len : Nat) (taken : Bool) (offset : Word) : State :=
  if taken then s.retireTo (s.pc + offset) len [24, 26] else s.retire len [24]

/-- The event class of a CSR instruction (R48 events 16 to 18). -/
def csrEvents (isWrite : Bool) (rd : RegIdx) : List Nat :=
  if !isWrite then [16] else if rd = 0 then [18] else [17]

/-- A CSR instruction (44 R530): the access check, then the old value to `rd` and `new` of it to the register. The counters
count it before its write (10_state.md R44). `bits` is what `mtval` shows when the access is illegal. -/
def State.csrInstr (s : State) (bits : Word) (rd : RegIdx) (a : BitVec 12) (isWrite : Bool) (new : Word → Word) :
    State :=
  match csrAccess s.cfg a isWrite false with
  | none => s.exception .illegal bits
  | some r =>
    let old := s.csrRead s.cur r
    let s1 := s.retire 4 (csrEvents isWrite rd)
    (if isWrite then s1.csrWrite s.cur r (new old) false else s1).setReg rd old

/-- An AMO (42_a.md R465): the implicit fence, the checks, the word at `x[rs1]` to `rd` and `op` of it and `x[rs2]` back to
memory. `bits` is what `mtval` shows in a core without atomics (R460(b)). -/
def State.amoInstr (s : State) (bits : Word) (rd rs1 rs2 : RegIdx) (op : Word → Word → Word) : State :=
  if atomicsBuilt s.cfg then
    let s1 := s.implicitFence
    let a := s.reg rs1
    match s1.atomicFault true a with
    | some c => s1.exception c a
    | none => (s1.dccmStore a (op (memReadWord s1.mem a) (s.reg rs2)) 4).writeBack 4 [51] rd (memReadWord s1.mem a)
  else s.exception .illegal bits

/-- `lr.w` (42_a.md R463). -/
def State.lrInstr (s : State) (bits : Word) (rd rs1 : RegIdx) : State :=
  if atomicsBuilt s.cfg then
    let s1 := s.implicitFence
    let a := s.reg rs1
    match s1.atomicFault false a with
    | some c => s1.exception c a
    | none => (s1.mapHart fun h => { h with reservation := some a }).writeBack 4 [52] rd (memReadWord s1.mem a)
  else s.exception .illegal bits

/-- `sc.w` (42_a.md R464). -/
def State.scInstr (s : State) (bits : Word) (rd rs1 rs2 : RegIdx) : State :=
  if atomicsBuilt s.cfg then
    let s1 := s.implicitFence
    let a := s.reg rs1
    match s1.atomicFault true a with
    | some c => s1.exception c a
    | none =>
      let done := s1.hart.reservation == some a
      let s2 := if done then s1.dccmStore a (s.reg rs2) 4 else s1
      (s2.mapHart Hart.clearReservation).writeBack 4 [53] rd (if done then 0 else 1)
  else s.exception .illegal bits

/-- A breakpoint into Debug Mode is counted, event 19, unless `dcsr.stopcount` is 1 (10_state.md R48; 12 R220). That it counts in event 19
and not in events 4 to 6 too is the model's choice (log entry 71). -/
def Hart.countBreakpoint (h : Hart) : Hart := if h.dbg.stopcount then h else h.count [19]

/-- `ebreak` and `c.ebreak` (40_rv32i.md R442): into Debug Mode after quiescing, or the breakpoint exception. Either way it counts in
event 19 ("ebreak committed") and not in events 4 to 6 ("instr committed"), where R48 and R442 are silent: the model's choice, log entry
71. -/
def State.breakpoint (s : State) : State :=
  if s.hart.dbg.ebreakm then
    (s.drainAll s.cur).mapHart fun h => h.countBreakpoint.enterDebug s.cfg debugCauseEbreak h.pc true
  else s.exception .ebreak s.pc [19]

end Sys2Proof.Machine
end

