-- ==== Sys2Proof/Machine/Flags.lean ====
section
/-! DEFINITION. The machine has no condition codes and no status flags (10_state.md R26): what other machines keep in
flags is here the comparison that a branch or a set instruction makes, and the 0 or 1 it leaves. -/

namespace Sys2Proof.Machine

/-- `a <s b` (00_scope.md R12). -/
def lessSigned (a b : Word) : Bool := a.slt b

/-- `a <u b` (R12). -/
def lessUnsigned (a b : Word) : Bool := a.ult b

/-- The 0 or 1 of a set instruction (R420, R421, R431, R432). -/
def flagWord (b : Bool) : Word := if b then 1 else 0

/-- The smaller of two words by an order (R470, R472, R557, R558). -/
def pickLess (less : Word → Word → Bool) (a b : Word) : Word := if less a b then a else b

/-- The larger of two words by an order (R471, R473, R559, R560). -/
def pickGreater (less : Word → Word → Bool) (a b : Word) : Word := if less a b then b else a

end Sys2Proof.Machine
end

