-- ==== Sys2Proof/Machine/Atomic.lean ====
section
/-! DEFINITION. The atomic instructions (42_a.md). `aq` and `rl` have no effect (R460(e)); they show only in the bits that an
illegal-instruction exception reports. -/

namespace Sys2Proof.Machine

/-- `lr.w` (R463). -/
def execLrW (rd rs1 : RegIdx) (aq rl : Bool) (s : State) : Host.Outcome State Fault Refusal :=
  .next (s.lrInstr (encode (.lrW rd rs1 aq rl)).bits rd rs1)

/-- `sc.w` (R464). -/
def execScW (rd rs1 rs2 : RegIdx) (aq rl : Bool) (s : State) : Host.Outcome State Fault Refusal :=
  .next (s.scInstr (encode (.scW rd rs1 rs2 aq rl)).bits rd rs1 rs2)

/-- `amoswap.w` (R465). -/
def execAmoswapW (rd rs1 rs2 : RegIdx) (aq rl : Bool) (s : State) : Host.Outcome State Fault Refusal :=
  .next (s.amoInstr (encode (.amoswapW rd rs1 rs2 aq rl)).bits rd rs1 rs2 fun _ v => v)

/-- `amoadd.w` (R466). -/
def execAmoaddW (rd rs1 rs2 : RegIdx) (aq rl : Bool) (s : State) : Host.Outcome State Fault Refusal :=
  .next (s.amoInstr (encode (.amoaddW rd rs1 rs2 aq rl)).bits rd rs1 rs2 fun t v => t + v)

/-- `amoxor.w` (R467). -/
def execAmoxorW (rd rs1 rs2 : RegIdx) (aq rl : Bool) (s : State) : Host.Outcome State Fault Refusal :=
  .next (s.amoInstr (encode (.amoxorW rd rs1 rs2 aq rl)).bits rd rs1 rs2 fun t v => t ^^^ v)

/-- `amoand.w` (R468). -/
def execAmoandW (rd rs1 rs2 : RegIdx) (aq rl : Bool) (s : State) : Host.Outcome State Fault Refusal :=
  .next (s.amoInstr (encode (.amoandW rd rs1 rs2 aq rl)).bits rd rs1 rs2 fun t v => t &&& v)

/-- `amoor.w` (R469). -/
def execAmoorW (rd rs1 rs2 : RegIdx) (aq rl : Bool) (s : State) : Host.Outcome State Fault Refusal :=
  .next (s.amoInstr (encode (.amoorW rd rs1 rs2 aq rl)).bits rd rs1 rs2 fun t v => t ||| v)

/-- `amomin.w` (R470). -/
def execAmominW (rd rs1 rs2 : RegIdx) (aq rl : Bool) (s : State) : Host.Outcome State Fault Refusal :=
  .next (s.amoInstr (encode (.amominW rd rs1 rs2 aq rl)).bits rd rs1 rs2 (pickLess lessSigned))

/-- `amomax.w` (R471). -/
def execAmomaxW (rd rs1 rs2 : RegIdx) (aq rl : Bool) (s : State) : Host.Outcome State Fault Refusal :=
  .next (s.amoInstr (encode (.amomaxW rd rs1 rs2 aq rl)).bits rd rs1 rs2 (pickGreater lessSigned))

/-- `amominu.w` (R472). -/
def execAmominuW (rd rs1 rs2 : RegIdx) (aq rl : Bool) (s : State) : Host.Outcome State Fault Refusal :=
  .next (s.amoInstr (encode (.amominuW rd rs1 rs2 aq rl)).bits rd rs1 rs2 (pickLess lessUnsigned))

/-- `amomaxu.w` (R473). -/
def execAmomaxuW (rd rs1 rs2 : RegIdx) (aq rl : Bool) (s : State) : Host.Outcome State Fault Refusal :=
  .next (s.amoInstr (encode (.amomaxuW rd rs1 rs2 aq rl)).bits rd rs1 rs2 (pickGreater lessUnsigned))

end Sys2Proof.Machine
end

