-- ==== Sys2Proof/Machine/BitOps.lean ====
section
/-! DEFINITION. The functions of words behind the shift, multiply, divide and bit-manipulation instructions (40_rv32i.md,
41_m.md, 45 and 46, R625). -/

namespace Sys2Proof.Machine

/-- A shift amount: the low 5 bits (R430, R550(c)). -/
def amount (v : Word) : Nat := (v.extractLsb' 0 5).toNat

/-! ## Multiply and divide (41_m.md) -/

/-- Bits 63 to 32 of an exact product. -/
def productHigh (p : Int) : Word := (BitVec.ofInt 64 p).extractLsb' 32 32

/-- R452. -/
def mulHigh (a b : Word) : Word := productHigh (a.toInt * b.toInt)

/-- R453. -/
def mulHighSU (a b : Word) : Word := productHigh (a.toInt * (b.toNat : Int))

/-- R454. -/
def mulHighU (a b : Word) : Word := productHigh ((a.toNat : Int) * (b.toNat : Int))

/-- R455: toward zero; all ones for a zero divisor; the dividend on overflow. -/
def divSigned (a b : Word) : Word :=
  if b = 0 then 0xFFFFFFFF
  else if a = 0x80000000 ∧ b = 0xFFFFFFFF then 0x80000000
  else BitVec.ofInt 32 (Int.tdiv a.toInt b.toInt)

/-- R456. -/
def divUnsigned (a b : Word) : Word := if b = 0 then 0xFFFFFFFF else BitVec.ofNat 32 (a.toNat / b.toNat)

/-- R457. -/
def remSigned (a b : Word) : Word :=
  if b = 0 then a
  else if a = 0x80000000 ∧ b = 0xFFFFFFFF then 0
  else BitVec.ofInt 32 (a.toInt - b.toInt * Int.tdiv a.toInt b.toInt)

/-- R458. -/
def remUnsigned (a b : Word) : Word := if b = 0 then a else BitVec.ofNat 32 (a.toNat % b.toNat)

/-! ## Zbb, Zbc, Zbs (45) -/

/-- The 0 bits of the low `n` bits above their highest 1 bit. -/
def leadingZeros (v : Word) : Nat → Nat
  | 0 => 0
  | n + 1 => if v.getLsbD n then 0 else 1 + leadingZeros v n

/-- The 0 bits from bit `i` up, below the next 1 bit, `n` bits at most. -/
def trailingZeros (v : Word) (i : Nat) : Nat → Nat
  | 0 => 0
  | n + 1 => if v.getLsbD i then 0 else 1 + trailingZeros v (i + 1) n

/-- The 1 bits among the low `n` bits. -/
def countOnes (v : Word) : Nat → Nat
  | 0 => 0
  | n + 1 => countOnes v n + (if v.getLsbD n then 1 else 0)

/-- R567. -/
def rotateLeft (v : Word) (n : Nat) : Word := (v <<< n) ||| (v >>> ((32 - n) % 32))

/-- R568. -/
def rotateRight (v : Word) (n : Nat) : Word := (v >>> n) ||| (v <<< ((32 - n) % 32))

/-- R570. -/
def byteReverse (v : Word) : Word :=
  v.extractLsb' 0 8 ++ v.extractLsb' 8 8 ++ v.extractLsb' 16 8 ++ v.extractLsb' 24 8

/-- All ones if a byte is not 0. -/
def fillByte (b : BitVec 8) : BitVec 8 := if b = 0 then 0 else 0xFF

/-- R571. -/
def orcBytes (v : Word) : Word :=
  fillByte (v.extractLsb' 24 8) ++ fillByte (v.extractLsb' 16 8) ++ fillByte (v.extractLsb' 8 8) ++
    fillByte (v.extractLsb' 0 8)

/-- The carry-less product by the low `n` bits of `b` (45 section 3). -/
def clProduct (a b : Word) : Nat → DWord
  | 0 => 0
  | n + 1 => clProduct a b n ^^^ (if b.getLsbD n then a.setWidth 64 <<< n else 0)

/-- One bit set (R575). -/
def bitMask (n : Nat) : Word := 1#32 <<< n

/-! ## Zbe, Zbf, Zbp, Zbr (46) -/

/-- R601, from bit `i` on, `n` bits, with `j` bits gathered so far. -/
def compressFrom (v mask : Word) (i j : Nat) : Nat → Word
  | 0 => 0
  | n + 1 =>
    if mask.getLsbD i then
      (if v.getLsbD i then bitMask j else 0) ||| compressFrom v mask (i + 1) (j + 1) n
    else compressFrom v mask (i + 1) j n

/-- R602, from bit `i` on, `n` bits, with `j` bits placed so far. -/
def decompressFrom (v mask : Word) (i j : Nat) : Nat → Word
  | 0 => 0
  | n + 1 =>
    if mask.getLsbD i then
      (if v.getLsbD j then bitMask i else 0) ||| decompressFrom v mask (i + 1) (j + 1) n
    else decompressFrom v mask (i + 1) j n

/-- R605. -/
def bitFieldPlace (a b : Word) : Word :=
  let len := if (b.extractLsb' 24 4).toNat = 0 then 16 else (b.extractLsb' 24 4).toNat
  let off := (b.extractLsb' 16 5).toNat
  let mask : Word := (bitMask len - 1) <<< off
  ((b <<< off) &&& mask) ||| (a &&& ~~~mask)

/-- The swap of one butterfly stage: neighbouring blocks of `n` bits. -/
def swapBlocks (v maskLow : Word) (n : Nat) : Word := ((v &&& maskLow) <<< n) ||| ((v &&& ~~~maskLow) >>> n)

/-- One stage of `grev` (R607). -/
def grevStage (on : Bool) (maskLow : Word) (n : Nat) (v : Word) : Word := if on then swapBlocks v maskLow n else v

/-- R607, with the amount `k`. -/
def grevWord (v : Word) (k : BitVec 5) : Word :=
  grevStage (k.getLsbD 4) 0x0000FFFF 16 (grevStage (k.getLsbD 3) 0x00FF00FF 8
    (grevStage (k.getLsbD 2) 0x0F0F0F0F 4 (grevStage (k.getLsbD 1) 0x33333333 2
      (grevStage (k.getLsbD 0) 0x55555555 1 v))))

/-- One stage of `gorc` (R609). -/
def gorcStage (on : Bool) (maskLow : Word) (n : Nat) (v : Word) : Word :=
  if on then v ||| swapBlocks v maskLow n else v

/-- R609, with the amount `k`. -/
def gorcWord (v : Word) (k : BitVec 5) : Word :=
  gorcStage (k.getLsbD 4) 0x0000FFFF 16 (gorcStage (k.getLsbD 3) 0x00FF00FF 8
    (gorcStage (k.getLsbD 2) 0x0F0F0F0F 4 (gorcStage (k.getLsbD 1) 0x33333333 2
      (gorcStage (k.getLsbD 0) 0x55555555 1 v))))

/-- `shuffle_stage` (R625), where the bit of the amount is set. -/
def shuffleStage (on : Bool) (maskL maskR : Word) (n : Nat) (v : Word) : Word :=
  if on then (v &&& ~~~(maskL ||| maskR)) ||| ((v <<< n) &&& maskL) ||| ((v >>> n) &&& maskR) else v

/-- R611, with the amount `k`. -/
def shuffleWord (v : Word) (k : BitVec 4) : Word :=
  shuffleStage (k.getLsbD 0) 0x44444444 0x22222222 1 (shuffleStage (k.getLsbD 1) 0x30303030 0x0C0C0C0C 2
    (shuffleStage (k.getLsbD 2) 0x0F000F00 0x00F000F0 4 (shuffleStage (k.getLsbD 3) 0x00FF0000 0x0000FF00 8 v)))

/-- R613, with the amount `k`. -/
def unshuffleWord (v : Word) (k : BitVec 4) : Word :=
  shuffleStage (k.getLsbD 3) 0x00FF0000 0x0000FF00 8 (shuffleStage (k.getLsbD 2) 0x0F000F00 0x00F000F0 4
    (shuffleStage (k.getLsbD 1) 0x30303030 0x0C0C0C0C 2 (shuffleStage (k.getLsbD 0) 0x44444444 0x22222222 1 v)))

/-- `xperm` (R625) on elements of `sz` bits, the lowest `n` of them. -/
def xpermUpTo (a b : Word) (sz : Nat) : Nat → Word
  | 0 => 0
  | n + 1 =>
    let m : Word := bitMask sz - 1
    let pos := ((b >>> (sz * n)) &&& m).toNat * sz
    xpermUpTo a b sz n ||| (if pos < 32 then ((a >>> pos) &&& m) <<< (sz * n) else 0)

/-- `crc` (R625): `n` steps of the shift register with polynomial `poly`. -/
def crcSteps (poly : Word) : Nat → Word → Word
  | 0, v => v
  | n + 1, v => crcSteps poly n (if v.getLsbD 0 then (v >>> 1) ^^^ poly else v >>> 1)

/-- CRC-32 (R618). -/
def polyCrc32 : Word := 0xEDB88320

/-- CRC-32C (R621). -/
def polyCrc32c : Word := 0x82F63B78

end Sys2Proof.Machine
end

