-- ==== Sys2Proof/Machine/BitmanipFrozen.lean ====
section
/-! DEFINITION. Zba, Zbb, Zbc and Zbs (45_bitmanip_zba_zbb_zbc_zbs.md). -/

namespace Sys2Proof.Machine

/-- `sh1add` (R551). -/
def execSh1add (rd rs1 rs2 : RegIdx) (s : State) : Host.Outcome State Fault Refusal :=
  .next (s.opReg bitmanipEvents rd rs1 rs2 fun a b => b + (a <<< 1))

/-- `sh2add` (R552). -/
def execSh2add (rd rs1 rs2 : RegIdx) (s : State) : Host.Outcome State Fault Refusal :=
  .next (s.opReg bitmanipEvents rd rs1 rs2 fun a b => b + (a <<< 2))

/-- `sh3add` (R553). -/
def execSh3add (rd rs1 rs2 : RegIdx) (s : State) : Host.Outcome State Fault Refusal :=
  .next (s.opReg bitmanipEvents rd rs1 rs2 fun a b => b + (a <<< 3))

/-- `clz` (R554). -/
def execClz (rd rs1 : RegIdx) (s : State) : Host.Outcome State Fault Refusal :=
  .next (s.opImm 4 bitmanipEvents rd rs1 fun a => BitVec.ofNat 32 (leadingZeros a 32))

/-- `ctz` (R555). -/
def execCtz (rd rs1 : RegIdx) (s : State) : Host.Outcome State Fault Refusal :=
  .next (s.opImm 4 bitmanipEvents rd rs1 fun a => BitVec.ofNat 32 (trailingZeros a 0 32))

/-- `cpop` (R556). -/
def execCpop (rd rs1 : RegIdx) (s : State) : Host.Outcome State Fault Refusal :=
  .next (s.opImm 4 bitmanipEvents rd rs1 fun a => BitVec.ofNat 32 (countOnes a 32))

/-- `min` (R557). -/
def execMin (rd rs1 rs2 : RegIdx) (s : State) : Host.Outcome State Fault Refusal :=
  .next (s.opReg bitmanipEvents rd rs1 rs2 fun a b => pickLess lessSigned a b)

/-- `minu` (R558). -/
def execMinu (rd rs1 rs2 : RegIdx) (s : State) : Host.Outcome State Fault Refusal :=
  .next (s.opReg bitmanipEvents rd rs1 rs2 fun a b => pickLess lessUnsigned a b)

/-- `max` (R559). -/
def execMax (rd rs1 rs2 : RegIdx) (s : State) : Host.Outcome State Fault Refusal :=
  .next (s.opReg bitmanipEvents rd rs1 rs2 fun a b => pickGreater lessSigned a b)

/-- `maxu` (R560). -/
def execMaxu (rd rs1 rs2 : RegIdx) (s : State) : Host.Outcome State Fault Refusal :=
  .next (s.opReg bitmanipEvents rd rs1 rs2 fun a b => pickGreater lessUnsigned a b)

/-- `sext.b` (R561). -/
def execSextB (rd rs1 : RegIdx) (s : State) : Host.Outcome State Fault Refusal :=
  .next (s.opImm 4 bitmanipEvents rd rs1 fun a => sext8 a)

/-- `sext.h` (R562). -/
def execSextH (rd rs1 : RegIdx) (s : State) : Host.Outcome State Fault Refusal :=
  .next (s.opImm 4 bitmanipEvents rd rs1 fun a => sext16 a)

/-- `zext.h` (R563). -/
def execZextH (rd rs1 : RegIdx) (s : State) : Host.Outcome State Fault Refusal :=
  .next (s.opImm 4 bitmanipEvents rd rs1 fun a => zext16 a)

/-- `andn` (R564). -/
def execAndn (rd rs1 rs2 : RegIdx) (s : State) : Host.Outcome State Fault Refusal :=
  .next (s.opReg bitmanipEvents rd rs1 rs2 fun a b => a &&& ~~~b)

/-- `orn` (R565). -/
def execOrn (rd rs1 rs2 : RegIdx) (s : State) : Host.Outcome State Fault Refusal :=
  .next (s.opReg bitmanipEvents rd rs1 rs2 fun a b => a ||| ~~~b)

/-- `xnor` (R566). -/
def execXnor (rd rs1 rs2 : RegIdx) (s : State) : Host.Outcome State Fault Refusal :=
  .next (s.opReg bitmanipEvents rd rs1 rs2 fun a b => ~~~(a ^^^ b))

/-- `rol` (R567). -/
def execRol (rd rs1 rs2 : RegIdx) (s : State) : Host.Outcome State Fault Refusal :=
  .next (s.opReg bitmanipEvents rd rs1 rs2 fun a b => rotateLeft a (amount b))

/-- `ror` (R568). -/
def execRor (rd rs1 rs2 : RegIdx) (s : State) : Host.Outcome State Fault Refusal :=
  .next (s.opReg bitmanipEvents rd rs1 rs2 fun a b => rotateRight a (amount b))

/-- `rori` (R569). -/
def execRori (rd rs1 : RegIdx) (shamt : BitVec 5) (s : State) : Host.Outcome State Fault Refusal :=
  .next (s.opImm 4 bitmanipEvents rd rs1 fun a => rotateRight a shamt.toNat)

/-- `rev8` (R570). -/
def execRev8 (rd rs1 : RegIdx) (s : State) : Host.Outcome State Fault Refusal :=
  .next (s.opImm 4 bitmanipEvents rd rs1 fun a => byteReverse a)

/-- `orc.b` (R571). -/
def execOrcB (rd rs1 : RegIdx) (s : State) : Host.Outcome State Fault Refusal :=
  .next (s.opImm 4 bitmanipEvents rd rs1 fun a => orcBytes a)

/-- `clmul` (R572). -/
def execClmul (rd rs1 rs2 : RegIdx) (s : State) : Host.Outcome State Fault Refusal :=
  .next (s.opReg bitmanipEvents rd rs1 rs2 fun a b => (clProduct a b 32).extractLsb' 0 32)

/-- `clmulh` (R573). -/
def execClmulh (rd rs1 rs2 : RegIdx) (s : State) : Host.Outcome State Fault Refusal :=
  .next (s.opReg bitmanipEvents rd rs1 rs2 fun a b => (clProduct a b 32).extractLsb' 32 32)

/-- `clmulr` (R574). -/
def execClmulr (rd rs1 rs2 : RegIdx) (s : State) : Host.Outcome State Fault Refusal :=
  .next (s.opReg bitmanipEvents rd rs1 rs2 fun a b => (clProduct a b 32).extractLsb' 31 32)

/-- `bset` (R575). -/
def execBset (rd rs1 rs2 : RegIdx) (s : State) : Host.Outcome State Fault Refusal :=
  .next (s.opReg bitmanipEvents rd rs1 rs2 fun a b => a ||| bitMask (amount b))

/-- `bseti` (R576). -/
def execBseti (rd rs1 : RegIdx) (shamt : BitVec 5) (s : State) : Host.Outcome State Fault Refusal :=
  .next (s.opImm 4 bitmanipEvents rd rs1 fun a => a ||| bitMask shamt.toNat)

/-- `bclr` (R577). -/
def execBclr (rd rs1 rs2 : RegIdx) (s : State) : Host.Outcome State Fault Refusal :=
  .next (s.opReg bitmanipEvents rd rs1 rs2 fun a b => a &&& ~~~bitMask (amount b))

/-- `bclri` (R578). -/
def execBclri (rd rs1 : RegIdx) (shamt : BitVec 5) (s : State) : Host.Outcome State Fault Refusal :=
  .next (s.opImm 4 bitmanipEvents rd rs1 fun a => a &&& ~~~bitMask shamt.toNat)

/-- `binv` (R579). -/
def execBinv (rd rs1 rs2 : RegIdx) (s : State) : Host.Outcome State Fault Refusal :=
  .next (s.opReg bitmanipEvents rd rs1 rs2 fun a b => a ^^^ bitMask (amount b))

/-- `binvi` (R580). -/
def execBinvi (rd rs1 : RegIdx) (shamt : BitVec 5) (s : State) : Host.Outcome State Fault Refusal :=
  .next (s.opImm 4 bitmanipEvents rd rs1 fun a => a ^^^ bitMask shamt.toNat)

/-- `bext` (R581). -/
def execBext (rd rs1 rs2 : RegIdx) (s : State) : Host.Outcome State Fault Refusal :=
  .next (s.opReg bitmanipEvents rd rs1 rs2 fun a b => (a >>> amount b) &&& 1)

/-- `bexti` (R582). -/
def execBexti (rd rs1 : RegIdx) (shamt : BitVec 5) (s : State) : Host.Outcome State Fault Refusal :=
  .next (s.opImm 4 bitmanipEvents rd rs1 fun a => (a >>> shamt.toNat) &&& 1)

end Sys2Proof.Machine
end

