-- ==== Sys2Proof/Machine/BitmanipStable.lean ====
section
/-! DEFINITION. Zbe, Zbf, Zbp and Zbr (46_bitmanip_zbe_zbf_zbp_zbr.md). -/

namespace Sys2Proof.Machine

/-- `bcompress` (R601). -/
def execBcompress (rd rs1 rs2 : RegIdx) (s : State) : Host.Outcome State Fault Refusal :=
  .next (s.opReg bitmanipEvents rd rs1 rs2 fun a b => compressFrom a b 0 0 32)

/-- `bdecompress` (R602). -/
def execBdecompress (rd rs1 rs2 : RegIdx) (s : State) : Host.Outcome State Fault Refusal :=
  .next (s.opReg bitmanipEvents rd rs1 rs2 fun a b => decompressFrom a b 0 0 32)

/-- `pack` (R603). -/
def execPack (rd rs1 rs2 : RegIdx) (s : State) : Host.Outcome State Fault Refusal :=
  .next (s.opReg bitmanipEvents rd rs1 rs2 fun a b => b.extractLsb' 0 16 ++ a.extractLsb' 0 16)

/-- `packh` (R604). -/
def execPackh (rd rs1 rs2 : RegIdx) (s : State) : Host.Outcome State Fault Refusal :=
  .next (s.opReg bitmanipEvents rd rs1 rs2 fun a b => (b.extractLsb' 0 8 ++ a.extractLsb' 0 8).setWidth 32)

/-- `bfp` (R605). -/
def execBfp (rd rs1 rs2 : RegIdx) (s : State) : Host.Outcome State Fault Refusal :=
  .next (s.opReg bitmanipEvents rd rs1 rs2 fun a b => bitFieldPlace a b)

/-- `packu` (R606). -/
def execPacku (rd rs1 rs2 : RegIdx) (s : State) : Host.Outcome State Fault Refusal :=
  .next (s.opReg bitmanipEvents rd rs1 rs2 fun a b => b.extractLsb' 16 16 ++ a.extractLsb' 16 16)

/-- `grev` (R607). -/
def execGrev (rd rs1 rs2 : RegIdx) (s : State) : Host.Outcome State Fault Refusal :=
  .next (s.opReg bitmanipEvents rd rs1 rs2 fun a b => grevWord a (b.extractLsb' 0 5))

/-- `grevi` (R608). -/
def execGrevi (rd rs1 : RegIdx) (shamt : BitVec 5) (s : State) : Host.Outcome State Fault Refusal :=
  .next (s.opImm 4 bitmanipEvents rd rs1 fun a => grevWord a shamt)

/-- `gorc` (R609). -/
def execGorc (rd rs1 rs2 : RegIdx) (s : State) : Host.Outcome State Fault Refusal :=
  .next (s.opReg bitmanipEvents rd rs1 rs2 fun a b => gorcWord a (b.extractLsb' 0 5))

/-- `gorci` (R610). -/
def execGorci (rd rs1 : RegIdx) (shamt : BitVec 5) (s : State) : Host.Outcome State Fault Refusal :=
  .next (s.opImm 4 bitmanipEvents rd rs1 fun a => gorcWord a shamt)

/-- `shfl` (R611). -/
def execShfl (rd rs1 rs2 : RegIdx) (s : State) : Host.Outcome State Fault Refusal :=
  .next (s.opReg bitmanipEvents rd rs1 rs2 fun a b => shuffleWord a (b.extractLsb' 0 4))

/-- `shfli` (R612). -/
def execShfli (rd rs1 : RegIdx) (shamt : BitVec 4) (s : State) : Host.Outcome State Fault Refusal :=
  .next (s.opImm 4 bitmanipEvents rd rs1 fun a => shuffleWord a shamt)

/-- `unshfl` (R613). -/
def execUnshfl (rd rs1 rs2 : RegIdx) (s : State) : Host.Outcome State Fault Refusal :=
  .next (s.opReg bitmanipEvents rd rs1 rs2 fun a b => unshuffleWord a (b.extractLsb' 0 4))

/-- `unshfli` (R614). -/
def execUnshfli (rd rs1 : RegIdx) (shamt : BitVec 4) (s : State) : Host.Outcome State Fault Refusal :=
  .next (s.opImm 4 bitmanipEvents rd rs1 fun a => unshuffleWord a shamt)

/-- `xperm.n` (R615). -/
def execXpermN (rd rs1 rs2 : RegIdx) (s : State) : Host.Outcome State Fault Refusal :=
  .next (s.opReg bitmanipEvents rd rs1 rs2 fun a b => xpermUpTo a b 4 8)

/-- `xperm.b` (R616). -/
def execXpermB (rd rs1 rs2 : RegIdx) (s : State) : Host.Outcome State Fault Refusal :=
  .next (s.opReg bitmanipEvents rd rs1 rs2 fun a b => xpermUpTo a b 8 4)

/-- `xperm.h` (R617). -/
def execXpermH (rd rs1 rs2 : RegIdx) (s : State) : Host.Outcome State Fault Refusal :=
  .next (s.opReg bitmanipEvents rd rs1 rs2 fun a b => xpermUpTo a b 16 2)

/-- `crc32.b` (R618). -/
def execCrc32B (rd rs1 : RegIdx) (s : State) : Host.Outcome State Fault Refusal :=
  .next (s.opImm 4 bitmanipEvents rd rs1 fun a => crcSteps polyCrc32 8 a)

/-- `crc32.h` (R619). -/
def execCrc32H (rd rs1 : RegIdx) (s : State) : Host.Outcome State Fault Refusal :=
  .next (s.opImm 4 bitmanipEvents rd rs1 fun a => crcSteps polyCrc32 16 a)

/-- `crc32.w` (R620). -/
def execCrc32W (rd rs1 : RegIdx) (s : State) : Host.Outcome State Fault Refusal :=
  .next (s.opImm 4 bitmanipEvents rd rs1 fun a => crcSteps polyCrc32 32 a)

/-- `crc32c.b` (R621). -/
def execCrc32cB (rd rs1 : RegIdx) (s : State) : Host.Outcome State Fault Refusal :=
  .next (s.opImm 4 bitmanipEvents rd rs1 fun a => crcSteps polyCrc32c 8 a)

/-- `crc32c.h` (R622). -/
def execCrc32cH (rd rs1 : RegIdx) (s : State) : Host.Outcome State Fault Refusal :=
  .next (s.opImm 4 bitmanipEvents rd rs1 fun a => crcSteps polyCrc32c 16 a)

/-- `crc32c.w` (R623). -/
def execCrc32cW (rd rs1 : RegIdx) (s : State) : Host.Outcome State Fault Refusal :=
  .next (s.opImm 4 bitmanipEvents rd rs1 fun a => crcSteps polyCrc32c 32 a)

end Sys2Proof.Machine
end

