-- ==== Sys2Proof/Machine/Compressed.lean ====
section
/-! DEFINITION. The compressed instructions, each as its expansion with a length of 2 (43_c.md R480). -/

namespace Sys2Proof.Machine

/-- `c.addi4spn` (R481). -/
def execCAddi4spn (rd : CReg) (imm : BitVec 8) (s : State) : Host.Outcome State Fault Refusal :=
  .next (s.opImm 2 aluEvents (cReg rd) sp fun a => a + cAddi4spnImm imm)

/-- `c.lw` (R482). -/
def execCLw (rd rs1 : CReg) (imm : BitVec 5) (s : State) : Host.Outcome State Fault Refusal :=
  .next (s.loadInstr 2 (cReg rd) (s.reg (cReg rs1)) (cWordOffset imm) 4 id)

/-- `c.sw` (R483). -/
def execCSw (rs2 rs1 : CReg) (imm : BitVec 5) (s : State) : Host.Outcome State Fault Refusal :=
  .next (s.storeInstr 2 (s.reg (cReg rs1)) (cWordOffset imm) (s.reg (cReg rs2)) 4)

/-- `c.nop` (R484). -/
def execCNop (_imm : BitVec 6) (s : State) : Host.Outcome State Fault Refusal :=
  .next (s.retire 2 aluEvents)

/-- `c.addi` (R485). -/
def execCAddi (rd : RegIdx) (imm : BitVec 6) (s : State) : Host.Outcome State Fault Refusal :=
  .next (s.opImm 2 aluEvents rd rd fun a => a + sext6 imm)

/-- `c.jal` (R486). -/
def execCJal (imm : BitVec 11) (s : State) : Host.Outcome State Fault Refusal :=
  .next (s.jump 2 ra (s.pc + cJumpOffset imm))

/-- `c.li` (R487). -/
def execCLi (rd : RegIdx) (imm : BitVec 6) (s : State) : Host.Outcome State Fault Refusal :=
  .next (s.writeBack 2 aluEvents rd (sext6 imm))

/-- `c.addi16sp` (R488). -/
def execCAddi16sp (imm : BitVec 6) (s : State) : Host.Outcome State Fault Refusal :=
  .next (s.opImm 2 aluEvents sp sp fun a => a + cAddi16spImm imm)

/-- `c.lui` (R489). -/
def execCLui (rd : RegIdx) (imm : BitVec 6) (s : State) : Host.Outcome State Fault Refusal :=
  .next (s.writeBack 2 aluEvents rd (cLuiImm imm))

/-- `c.srli` (R490). -/
def execCSrli (rd : CReg) (shamt : BitVec 5) (s : State) : Host.Outcome State Fault Refusal :=
  .next (s.opImm 2 aluEvents (cReg rd) (cReg rd) fun a => a >>> shamt.toNat)

/-- `c.srai` (R491). -/
def execCSrai (rd : CReg) (shamt : BitVec 5) (s : State) : Host.Outcome State Fault Refusal :=
  .next (s.opImm 2 aluEvents (cReg rd) (cReg rd) fun a => a.sshiftRight shamt.toNat)

/-- `c.andi` (R492). -/
def execCAndi (rd : CReg) (imm : BitVec 6) (s : State) : Host.Outcome State Fault Refusal :=
  .next (s.opImm 2 aluEvents (cReg rd) (cReg rd) fun a => a &&& sext6 imm)

/-- `c.sub` (R493). -/
def execCSub (rd rs2 : CReg) (s : State) : Host.Outcome State Fault Refusal :=
  .next (s.opImm 2 aluEvents (cReg rd) (cReg rd) fun a => a - s.reg (cReg rs2))

/-- `c.xor` (R494). -/
def execCXor (rd rs2 : CReg) (s : State) : Host.Outcome State Fault Refusal :=
  .next (s.opImm 2 aluEvents (cReg rd) (cReg rd) fun a => a ^^^ s.reg (cReg rs2))

/-- `c.or` (R495). -/
def execCOr (rd rs2 : CReg) (s : State) : Host.Outcome State Fault Refusal :=
  .next (s.opImm 2 aluEvents (cReg rd) (cReg rd) fun a => a ||| s.reg (cReg rs2))

/-- `c.and` (R496). -/
def execCAnd (rd rs2 : CReg) (s : State) : Host.Outcome State Fault Refusal :=
  .next (s.opImm 2 aluEvents (cReg rd) (cReg rd) fun a => a &&& s.reg (cReg rs2))

/-- `c.j` (R497). -/
def execCJ (imm : BitVec 11) (s : State) : Host.Outcome State Fault Refusal :=
  .next (s.retireTo (s.pc + cJumpOffset imm) 2 [])

/-- `c.beqz` (R498). -/
def execCBeqz (rs1 : CReg) (imm : BitVec 8) (s : State) : Host.Outcome State Fault Refusal :=
  .next (s.branch 2 (s.reg (cReg rs1) == 0) (cBranchOffset imm))

/-- `c.bnez` (R499). -/
def execCBnez (rs1 : CReg) (imm : BitVec 8) (s : State) : Host.Outcome State Fault Refusal :=
  .next (s.branch 2 (s.reg (cReg rs1) != 0) (cBranchOffset imm))

/-- `c.slli` (R500). -/
def execCSlli (rd : RegIdx) (shamt : BitVec 5) (s : State) : Host.Outcome State Fault Refusal :=
  .next (s.opImm 2 aluEvents rd rd fun a => a <<< shamt.toNat)

/-- `c.lwsp` (R501). -/
def execCLwsp (rd : RegIdx) (imm : BitVec 6) (s : State) : Host.Outcome State Fault Refusal :=
  .next (s.loadInstr 2 rd (s.reg sp) (cStackOffset imm) 4 id)

/-- `c.jr` (R502). -/
def execCJr (rs1 : RegIdx) (s : State) : Host.Outcome State Fault Refusal :=
  .next (s.retireTo (s.reg rs1 &&& 0xFFFFFFFE) 2 [])

/-- `c.mv` (R503). -/
def execCMv (rd rs2 : RegIdx) (s : State) : Host.Outcome State Fault Refusal :=
  .next (s.opImm 2 aluEvents rd rs2 fun a => a)

/-- `c.ebreak` (R504). -/
def execCEbreak (s : State) : Host.Outcome State Fault Refusal :=
  .next (s.breakpoint)

/-- `c.jalr` (R505). -/
def execCJalr (rs1 : RegIdx) (s : State) : Host.Outcome State Fault Refusal :=
  .next (s.jump 2 ra (s.reg rs1 &&& 0xFFFFFFFE))

/-- `c.add` (R506). -/
def execCAdd (rd rs2 : RegIdx) (s : State) : Host.Outcome State Fault Refusal :=
  .next (s.opImm 2 aluEvents rd rd fun a => a + s.reg rs2)

/-- `c.swsp` (R507). -/
def execCSwsp (rs2 : RegIdx) (imm : BitVec 6) (s : State) : Host.Outcome State Fault Refusal :=
  .next (s.storeInstr 2 (s.reg sp) (cStackOffset imm) (s.reg rs2) 4)

end Sys2Proof.Machine
end

