-- ==== Sys2Proof/Machine/Integer.lean ====
section
/-! DEFINITION. The integer instructions (40_rv32i.md R400 to R437). -/

namespace Sys2Proof.Machine

/-- `lui` (R401). -/
def execLui (rd : RegIdx) (imm : BitVec 20) (s : State) : Host.Outcome State Fault Refusal :=
  .next (s.writeBack 4 aluEvents rd (upperImm imm))

/-- `auipc` (R402). -/
def execAuipc (rd : RegIdx) (imm : BitVec 20) (s : State) : Host.Outcome State Fault Refusal :=
  .next (s.writeBack 4 aluEvents rd (s.pc + upperImm imm))

/-- `jal` (R403). -/
def execJal (rd : RegIdx) (imm : BitVec 20) (s : State) : Host.Outcome State Fault Refusal :=
  .next (s.jump 4 rd (s.pc + jumpOffset imm))

/-- `jalr` (R404). -/
def execJalr (rd rs1 : RegIdx) (imm : BitVec 12) (s : State) : Host.Outcome State Fault Refusal :=
  .next (s.jump 4 rd ((s.reg rs1 + sext12 imm) &&& 0xFFFFFFFE))

/-- `beq` (R405). -/
def execBeq (rs1 rs2 : RegIdx) (imm : BitVec 12) (s : State) : Host.Outcome State Fault Refusal :=
  .next (s.branch 4 (s.reg rs1 == s.reg rs2) (branchOffset imm))

/-- `bne` (R406). -/
def execBne (rs1 rs2 : RegIdx) (imm : BitVec 12) (s : State) : Host.Outcome State Fault Refusal :=
  .next (s.branch 4 (s.reg rs1 != s.reg rs2) (branchOffset imm))

/-- `blt` (R407). -/
def execBlt (rs1 rs2 : RegIdx) (imm : BitVec 12) (s : State) : Host.Outcome State Fault Refusal :=
  .next (s.branch 4 (lessSigned (s.reg rs1) (s.reg rs2)) (branchOffset imm))

/-- `bge` (R408). -/
def execBge (rs1 rs2 : RegIdx) (imm : BitVec 12) (s : State) : Host.Outcome State Fault Refusal :=
  .next (s.branch 4 (!lessSigned (s.reg rs1) (s.reg rs2)) (branchOffset imm))

/-- `bltu` (R409). -/
def execBltu (rs1 rs2 : RegIdx) (imm : BitVec 12) (s : State) : Host.Outcome State Fault Refusal :=
  .next (s.branch 4 (lessUnsigned (s.reg rs1) (s.reg rs2)) (branchOffset imm))

/-- `bgeu` (R410). -/
def execBgeu (rs1 rs2 : RegIdx) (imm : BitVec 12) (s : State) : Host.Outcome State Fault Refusal :=
  .next (s.branch 4 (!lessUnsigned (s.reg rs1) (s.reg rs2)) (branchOffset imm))

/-- `lb` (R411). -/
def execLb (rd rs1 : RegIdx) (imm : BitVec 12) (s : State) : Host.Outcome State Fault Refusal :=
  .next (s.loadInstr 4 rd (s.reg rs1) (sext12 imm) 1 sext8)

/-- `lh` (R412). -/
def execLh (rd rs1 : RegIdx) (imm : BitVec 12) (s : State) : Host.Outcome State Fault Refusal :=
  .next (s.loadInstr 4 rd (s.reg rs1) (sext12 imm) 2 sext16)

/-- `lw` (R413). -/
def execLw (rd rs1 : RegIdx) (imm : BitVec 12) (s : State) : Host.Outcome State Fault Refusal :=
  .next (s.loadInstr 4 rd (s.reg rs1) (sext12 imm) 4 id)

/-- `lbu` (R414). -/
def execLbu (rd rs1 : RegIdx) (imm : BitVec 12) (s : State) : Host.Outcome State Fault Refusal :=
  .next (s.loadInstr 4 rd (s.reg rs1) (sext12 imm) 1 zext8)

/-- `lhu` (R415). -/
def execLhu (rd rs1 : RegIdx) (imm : BitVec 12) (s : State) : Host.Outcome State Fault Refusal :=
  .next (s.loadInstr 4 rd (s.reg rs1) (sext12 imm) 2 zext16)

/-- `sb` (R416). -/
def execSb (rs2 rs1 : RegIdx) (imm : BitVec 12) (s : State) : Host.Outcome State Fault Refusal :=
  .next (s.storeInstr 4 (s.reg rs1) (sext12 imm) (s.reg rs2) 1)

/-- `sh` (R417). -/
def execSh (rs2 rs1 : RegIdx) (imm : BitVec 12) (s : State) : Host.Outcome State Fault Refusal :=
  .next (s.storeInstr 4 (s.reg rs1) (sext12 imm) (s.reg rs2) 2)

/-- `sw` (R418). -/
def execSw (rs2 rs1 : RegIdx) (imm : BitVec 12) (s : State) : Host.Outcome State Fault Refusal :=
  .next (s.storeInstr 4 (s.reg rs1) (sext12 imm) (s.reg rs2) 4)

/-- `addi` (R419). -/
def execAddi (rd rs1 : RegIdx) (imm : BitVec 12) (s : State) : Host.Outcome State Fault Refusal :=
  .next (s.opImm 4 aluEvents rd rs1 fun a => a + sext12 imm)

/-- `slti` (R420). -/
def execSlti (rd rs1 : RegIdx) (imm : BitVec 12) (s : State) : Host.Outcome State Fault Refusal :=
  .next (s.opImm 4 aluEvents rd rs1 fun a => flagWord (lessSigned a (sext12 imm)))

/-- `sltiu` (R421). -/
def execSltiu (rd rs1 : RegIdx) (imm : BitVec 12) (s : State) : Host.Outcome State Fault Refusal :=
  .next (s.opImm 4 aluEvents rd rs1 fun a => flagWord (lessUnsigned a (sext12 imm)))

/-- `xori` (R422). -/
def execXori (rd rs1 : RegIdx) (imm : BitVec 12) (s : State) : Host.Outcome State Fault Refusal :=
  .next (s.opImm 4 aluEvents rd rs1 fun a => a ^^^ sext12 imm)

/-- `ori` (R423). -/
def execOri (rd rs1 : RegIdx) (imm : BitVec 12) (s : State) : Host.Outcome State Fault Refusal :=
  .next (s.opImm 4 aluEvents rd rs1 fun a => a ||| sext12 imm)

/-- `andi` (R424). -/
def execAndi (rd rs1 : RegIdx) (imm : BitVec 12) (s : State) : Host.Outcome State Fault Refusal :=
  .next (s.opImm 4 aluEvents rd rs1 fun a => a &&& sext12 imm)

/-- `slli` (R425). -/
def execSlli (rd rs1 : RegIdx) (shamt : BitVec 5) (s : State) : Host.Outcome State Fault Refusal :=
  .next (s.opImm 4 aluEvents rd rs1 fun a => a <<< shamt.toNat)

/-- `srli` (R426). -/
def execSrli (rd rs1 : RegIdx) (shamt : BitVec 5) (s : State) : Host.Outcome State Fault Refusal :=
  .next (s.opImm 4 aluEvents rd rs1 fun a => a >>> shamt.toNat)

/-- `srai` (R427). -/
def execSrai (rd rs1 : RegIdx) (shamt : BitVec 5) (s : State) : Host.Outcome State Fault Refusal :=
  .next (s.opImm 4 aluEvents rd rs1 fun a => a.sshiftRight shamt.toNat)

/-- `add` (R428). -/
def execAdd (rd rs1 rs2 : RegIdx) (s : State) : Host.Outcome State Fault Refusal :=
  .next (s.opReg aluEvents rd rs1 rs2 fun a b => a + b)

/-- `sub` (R429). -/
def execSub (rd rs1 rs2 : RegIdx) (s : State) : Host.Outcome State Fault Refusal :=
  .next (s.opReg aluEvents rd rs1 rs2 fun a b => a - b)

/-- `sll` (R430). -/
def execSll (rd rs1 rs2 : RegIdx) (s : State) : Host.Outcome State Fault Refusal :=
  .next (s.opReg aluEvents rd rs1 rs2 fun a b => a <<< amount b)

/-- `slt` (R431). -/
def execSlt (rd rs1 rs2 : RegIdx) (s : State) : Host.Outcome State Fault Refusal :=
  .next (s.opReg aluEvents rd rs1 rs2 fun a b => flagWord (lessSigned a b))

/-- `sltu` (R432). -/
def execSltu (rd rs1 rs2 : RegIdx) (s : State) : Host.Outcome State Fault Refusal :=
  .next (s.opReg aluEvents rd rs1 rs2 fun a b => flagWord (lessUnsigned a b))

/-- `xor` (R433). -/
def execXor (rd rs1 rs2 : RegIdx) (s : State) : Host.Outcome State Fault Refusal :=
  .next (s.opReg aluEvents rd rs1 rs2 fun a b => a ^^^ b)

/-- `srl` (R434). -/
def execSrl (rd rs1 rs2 : RegIdx) (s : State) : Host.Outcome State Fault Refusal :=
  .next (s.opReg aluEvents rd rs1 rs2 fun a b => a >>> amount b)

/-- `sra` (R435). -/
def execSra (rd rs1 rs2 : RegIdx) (s : State) : Host.Outcome State Fault Refusal :=
  .next (s.opReg aluEvents rd rs1 rs2 fun a b => a.sshiftRight (amount b))

/-- `or` (R436). -/
def execOr (rd rs1 rs2 : RegIdx) (s : State) : Host.Outcome State Fault Refusal :=
  .next (s.opReg aluEvents rd rs1 rs2 fun a b => a ||| b)

/-- `and` (R437). -/
def execAnd (rd rs1 rs2 : RegIdx) (s : State) : Host.Outcome State Fault Refusal :=
  .next (s.opReg aluEvents rd rs1 rs2 fun a b => a &&& b)

end Sys2Proof.Machine
end

