-- ==== Sys2Proof/Machine/MulDiv.lean ====
section
/-! DEFINITION. Multiply and divide (41_m.md). Events 9 and 10 count them (10_state.md R48). -/

namespace Sys2Proof.Machine

/-- `mul` (R451). -/
def execMul (rd rs1 rs2 : RegIdx) (s : State) : Host.Outcome State Fault Refusal :=
  .next (s.opReg [9] rd rs1 rs2 fun a b => a * b)

/-- `mulh` (R452). -/
def execMulh (rd rs1 rs2 : RegIdx) (s : State) : Host.Outcome State Fault Refusal :=
  .next (s.opReg [9] rd rs1 rs2 fun a b => mulHigh a b)

/-- `mulhsu` (R453). -/
def execMulhsu (rd rs1 rs2 : RegIdx) (s : State) : Host.Outcome State Fault Refusal :=
  .next (s.opReg [9] rd rs1 rs2 fun a b => mulHighSU a b)

/-- `mulhu` (R454). -/
def execMulhu (rd rs1 rs2 : RegIdx) (s : State) : Host.Outcome State Fault Refusal :=
  .next (s.opReg [9] rd rs1 rs2 fun a b => mulHighU a b)

/-- `div` (R455). -/
def execDiv (rd rs1 rs2 : RegIdx) (s : State) : Host.Outcome State Fault Refusal :=
  .next (s.opReg [10] rd rs1 rs2 fun a b => divSigned a b)

/-- `divu` (R456). -/
def execDivu (rd rs1 rs2 : RegIdx) (s : State) : Host.Outcome State Fault Refusal :=
  .next (s.opReg [10] rd rs1 rs2 fun a b => divUnsigned a b)

/-- `rem` (R457). -/
def execRem (rd rs1 rs2 : RegIdx) (s : State) : Host.Outcome State Fault Refusal :=
  .next (s.opReg [10] rd rs1 rs2 fun a b => remSigned a b)

/-- `remu` (R458). -/
def execRemu (rd rs1 rs2 : RegIdx) (s : State) : Host.Outcome State Fault Refusal :=
  .next (s.opReg [10] rd rs1 rs2 fun a b => remUnsigned a b)

end Sys2Proof.Machine
end

