-- ==== Sys2Proof/Machine/System.lean ====
section
/-! DEFINITION. The fences, the environment instructions and the CSR instructions (40_rv32i.md R440 to R442, 44_zicsr_zifencei_system.md). -/

namespace Sys2Proof.Machine

/-- `fence` (R440). -/
def execFence (_fm _pred _succ : BitVec 4) (_rs1 _rd : RegIdx) (s : State) : Host.Outcome State Fault Refusal :=
  .next ((s.fenceOp s.cur).retire 4 [21])

/-- `ecall` (R441). It counts in event 20 and not in events 4 to 6 (log entry 71). -/
def execEcall (s : State) : Host.Outcome State Fault Refusal :=
  .next (s.exception .ecall 0 [20])

/-- `ebreak` (R442). -/
def execEbreak (s : State) : Host.Outcome State Fault Refusal :=
  .next (s.breakpoint)

/-- `csrrw` (R532). -/
def execCsrrw (rd : RegIdx) (csr : BitVec 12) (rs1 : RegIdx) (s : State) : Host.Outcome State Fault Refusal :=
  .next (s.csrInstr (encode (.csrrw rd csr rs1)).bits rd csr true fun _ => s.reg rs1)

/-- `csrrs` (R533). -/
def execCsrrs (rd : RegIdx) (csr : BitVec 12) (rs1 : RegIdx) (s : State) : Host.Outcome State Fault Refusal :=
  .next (s.csrInstr (encode (.csrrs rd csr rs1)).bits rd csr (rs1 != 0) fun t => t ||| s.reg rs1)

/-- `csrrc` (R534). -/
def execCsrrc (rd : RegIdx) (csr : BitVec 12) (rs1 : RegIdx) (s : State) : Host.Outcome State Fault Refusal :=
  .next (s.csrInstr (encode (.csrrc rd csr rs1)).bits rd csr (rs1 != 0) fun t => t &&& ~~~s.reg rs1)

/-- `csrrwi` (R535). -/
def execCsrrwi (rd : RegIdx) (csr : BitVec 12) (uimm : BitVec 5) (s : State) : Host.Outcome State Fault Refusal :=
  .next (s.csrInstr (encode (.csrrwi rd csr uimm)).bits rd csr true fun _ => uimm.setWidth 32)

/-- `csrrsi` (R536). -/
def execCsrrsi (rd : RegIdx) (csr : BitVec 12) (uimm : BitVec 5) (s : State) : Host.Outcome State Fault Refusal :=
  .next (s.csrInstr (encode (.csrrsi rd csr uimm)).bits rd csr (uimm != 0) fun t => t ||| uimm.setWidth 32)

/-- `csrrci` (R538). -/
def execCsrrci (rd : RegIdx) (csr : BitVec 12) (uimm : BitVec 5) (s : State) : Host.Outcome State Fault Refusal :=
  .next (s.csrInstr (encode (.csrrci rd csr uimm)).bits rd csr (uimm != 0) fun t => t &&& ~~~(uimm.setWidth 32))

/-- `fence.i` (R537). -/
def execFenceI (_imm : BitVec 12) (_rs1 _rd : RegIdx) (s : State) : Host.Outcome State Fault Refusal :=
  .next ((s.fenceIOp s.cur).retire 4 [22])

/-- `mret` (R539): the return of 60_exceptions.md R676, and the reservation is cleared because an `mret` is executed on this hart
(42_a.md R462 (4); log entry 6). -/
def execMret (s : State) : Host.Outcome State Fault Refusal :=
  .next ((s.retire 4 [23]).mapHart fun h => h.mret.clearReservation)

/-- `wfi` (R540). -/
def execWfi (s : State) : Host.Outcome State Fault Refusal :=
  .next (s.retire 4 aluEvents)

end Sys2Proof.Machine
end

