-- ==== Sys2Proof/Machine/DebugModule.lean ====
section
/-! DEFINITION. The Debug Module and the JTAG transport (12_state_pic_debug_regs.md R235 to R247): halt and resume requests,
abstract commands, system bus access, and leaving Debug Mode (62 R833, R834). -/

namespace Sys2Proof.Machine

/-! ## Resuming a hart -/

/-- Every source that holds the hart has sent its resume, and there is one (62 R833, Table 6-1). -/
def DebugRegs.mayResume (d : DebugRegs) : Bool :=
  (d.dbgHaltState || d.mpcHaltState) && (!d.dbgHaltState || d.resumePending) && (!d.mpcHaltState || d.runPending)

/-- `resume` (62 R834) for a hart in DbHalt. If a PMU halt request is pending when a run request of the MPC is honoured, for a single step
too, the MPC's run acknowledge waits for the PMU's run request (R833), through whatever halts and resumes come in between. -/
def Hart.resume (h : Hart) : Hart :=
  let step := h.dbg.step && h.dbg.dbgHaltState
  let toSleep := !step && h.power.pmuHaltPending
  { h with
    pc := h.dbg.dpc
    reservation := none
    activity := if toSleep then .sleep else .running
    power := { h.power with
      pmuHaltPending := h.power.pmuHaltPending && !toSleep
      mpcRunOwed := h.power.mpcRunOwed || (h.power.pmuHaltPending && h.dbg.mpcHaltState) }
    dbg := { h.dbg with
      dbgHaltState := false
      mpcHaltState := false
      resumePending := false
      runPending := false
      stepping := step
      timeout := 0
      haltWaits := false
      brkptStatus := false } }

/-- Hart `h` leaves DbHalt if Table 6-1 says so. -/
def State.tryResume (s : State) (h : HartId) : State :=
  let x := s.hartAt h
  if decide (x.activity = .dbHalt) && x.dbg.mayResume then
    { s.mapHartAt h Hart.resume with
      dm := { s.dm with resumeAck := s.dm.resumeAck.set h (s.dm.resumeAck.get h || x.dbg.dbgHaltState) } }
  else s

/-! ## Hart selection and status -/

/-- The core is held in reset (70 R860, R863). -/
def State.heldInReset (s : State) : Bool := s.inReset || s.dm.ndmreset

/-- Hart `h` is unavailable to the debugger (12 R238, 70 R862). -/
def State.unavailable (s : State) (h : HartId) : Bool :=
  s.heldInReset || decide ((s.hartAt h).activity = .idle)

/-- Hart `h` is halted for the debugger (R239). -/
def State.halted (s : State) (h : HartId) : Bool := !s.unavailable h && decide ((s.hartAt h).activity = .dbHalt)

/-- The hart is among the selected ones (R237). -/
def State.selected (s : State) (h : HartId) : Bool :=
  if s.cfg.dualThread then
    decide (s.dm.hartsel = h) || (s.dm.hasel && s.dm.hawindow.getLsbD h.number)
  else decide (h = .t0)

/-- A pair of all/any bits over the selected harts (R238). -/
def State.allAny (s : State) (f : HartId → Bool) : BitVec 2 :=
  BitVec.ofBool ((!s.selected .t0 || f .t0) && (!s.selected .t1 || f .t1)) ++
    BitVec.ofBool ((s.selected .t0 && f .t0) || (s.selected .t1 && f .t1))

/-- `dmstatus` (R238). A hart in Sleep counts as running (log entry 60). -/
def State.dmstatus (s : State) : Word :=
  0#12 ++ s.allAny (fun h => s.dm.haveReset.get h) ++ s.allAny (fun h => s.dm.resumeAck.get h) ++ 0#2 ++
    s.allAny s.unavailable ++ s.allAny (fun h => !s.unavailable h && !s.halted h) ++ s.allAny s.halted ++ 0b10000010#8

/-- `dmcontrol` (R237). -/
def DebugModule.dmcontrol (d : DebugModule) : Word :=
  0#5 ++ BitVec.ofBool d.hasel ++ 0#9 ++ BitVec.ofBool (decide (d.hartsel = .t1)) ++ 0#14 ++
    BitVec.ofBool d.ndmreset ++ BitVec.ofBool d.dmactive

/-- `sbcs` (R245). -/
def DebugModule.sbcs (d : DebugModule) : Word :=
  1#3 ++ 0#6 ++ BitVec.ofBool d.sbBusyError ++ BitVec.ofBool d.sbBusy.isSome ++ BitVec.ofBool d.sbReadOnAddr ++ d.sbAccess ++
    BitVec.ofBool d.sbAutoIncrement ++ BitVec.ofBool d.sbReadOnData ++ d.sbError ++ 0b010000001111#12

/-- `abstractcs` (R242). -/
def DebugModule.abstractcs (d : DebugModule) : Word :=
  (BitVec.ofBool d.running.isSome ++ 0#1 ++ d.cmderr ++ 2#8).setWidth 32

/-- The Debug Module's own reset (70 R861, R869); the sticky `havereset` is the core's, the transport has its own reset. A command or a
bus access in progress is dropped (log entry 67). That the resume acknowledges of both harts are cleared, and that a hart keeps a resume
request that waits for the MPC, is the model's choice, log entry 80. -/
def DebugModule.resetModule (d : DebugModule) : DebugModule :=
  { DebugModule.reset with
    haveReset := d.haveReset
    dmiAddress := d.dmiAddress
    dmiData := d.dmiData
    jtagOut := d.jtagOut }

/-- The debugger's resume request for hart `h` (62 R834): ignored unless the debugger holds the hart in DbHalt (R833). -/
def State.requestResume (s : State) (h : HartId) : State :=
  let s1 := { s with dm := { s.dm with resumeAck := s.dm.resumeAck.set h false } }
  let x := s.hartAt h
  if decide (x.activity = .dbHalt) && x.dbg.dbgHaltState then
    (s1.mapHartAt h fun y => { y with dbg := { y.dbg with resumePending := true } }).tryResume h
  else s1

/-- The debugger's halt request bit of hart `h` gets the value `on`; a hart in DbHalt is then held by the debugger too
(62 R833, R836). -/
def State.requestHalt (s : State) (h : HartId) (on : Bool) : State :=
  { s.mapHartAt h fun x =>
      if on && decide (x.activity = .dbHalt) then { x with dbg := { x.dbg with dbgHaltState := true } } else x with
    dm := { s.dm with haltReq := s.dm.haltReq.set h on } }

/-- What a write of `w` to `dmcontrol` asks of hart `h`, if it is selected (R237). A write with both `resumereq` and `ackhavereset`, which
the debugger may not make, does both (log entry 70). -/
def State.controlHart (s : State) (h : HartId) (w : Word) : State :=
  if s.selected h then
    let s1 := s.requestHalt h (w.getLsbD 31)
    let s2 := if w.getLsbD 28 then
      { s1 with dm := { s1.dm with haveReset := s1.dm.haveReset.set h false } } else s1
    if w.getLsbD 30 && !w.getLsbD 31 then s2.requestResume h else s2
  else s

/-- A write of `w` to `dmcontrol` (R237), but for what `ndmreset` does to the core. -/
def State.writeDmcontrol (s : State) (w : Word) : State :=
  if !w.getLsbD 0 then { s with dm := s.dm.resetModule }
  else if !s.dm.dmactive then { s with dm := { s.dm with dmactive := true } }
  else
    let s1 := { s with dm := { s.dm with
      hasel := s.cfg.dualThread && w.getLsbD 26
      hartsel := if s.cfg.dualThread && w.getLsbD 16 then .t1 else .t0
      ndmreset := w.getLsbD 1 } }
    (s1.controlHart .t0 w).controlHart .t1 w

/-! ## Abstract commands (R240, R241) -/

/-- `cmderr` takes the code `e` if it is 0 (R240, R242). -/
def DebugModule.noteError (d : DebugModule) (e : BitVec 3) : DebugModule :=
  { d with cmderr := if d.cmderr = 0 then e else d.cmderr }

/-- A command failed with the code `e`; what `data0` and `data1` hold is then free (R244, 93 U27). -/
def State.commandError (s : State) (e : BitVec 3) : State :=
  { s with dm := { s.dm.noteError e with
    data0 := freeAbstractData 0 s.env.fresh
    data1 := freeAbstractData 1 s.env.fresh } }

/-- The stored registers that the harts share and the I-cache diagnostic registers (R240, 93 U23). The shared registers that only read
what the build says (`misa`, the ID registers, `mhartnum`) are read whatever the other hart does (log entry 47). -/
def Csr.needsBothHalted : Csr → Bool
  | .mrac | .micect | .miccmect | .mdccmect | .mhartstart | .mnmipdel | .mfdht | .mfdc | .mcgc
  | .dicawics | .dicad0 | .dicad0h | .dicad1 | .dicago => true
  | _ => false

/-- The other hart executes or sleeps. A hart 1 that has not been started is no obstacle (log entry 47). -/
def State.otherActive (s : State) (h : HartId) : Bool :=
  match (s.hartAt h.other).activity with
  | .running | .sleep => true
  | .idle | .dbHalt => false

/-- The register part of a command that succeeded: `data0` is the value read, or free after a write, `data1` is free
(R244, 93 U27); `regno` goes on if asked for. -/
def State.registerDone (s : State) (cmd data0 : Word) : State :=
  { s with dm := { s.dm with
    data0 := data0
    data1 := freeAbstractData 1 s.env.fresh
    command := if cmd.getLsbD 19 then cmd.extractLsb' 16 16 ++ (cmd.extractLsb' 0 16 + 1) else cmd } }

/-- The access-register command on hart `h` (R240). With `transfer` = 0 it does nothing and succeeds. `postexec` = 1 and an
unsupported size are reported before an illegal register number (log entry 61). That a write to a read-only CSR fails with `cmderr` 3 is
the model's choice, log entry 79. -/
def State.accessRegister (s : State) (h : HartId) (cmd : Word) : Except Refusal State :=
  let regno := cmd.extractLsb' 0 16
  let isWrite := cmd.getLsbD 16
  let lost := freeAbstractData 0 s.env.fresh
  if cmd.getLsbD 18 then .ok (s.commandError 2)
  else if !cmd.getLsbD 17 then .ok (s.registerDone cmd lost)
  else if cmd.extractLsb' 20 3 != 2 then .ok (s.commandError 2)
  else if regno.extractLsb' 12 4 = 0 then
    match csrAccess s.cfg (regno.extractLsb' 0 12) isWrite true with
    | none => .ok (s.commandError 3)
    | some r =>
      if r.needsBothHalted && s.otherActive h then .error (.brokenObligation "R240")
      else if isWrite then .ok ((s.csrWrite h r s.dm.data0 true).registerDone cmd lost)
      else
        let s1 := if r = .dicago then s.diagRead h else s
        .ok (s1.registerDone cmd (s.csrRead h r))
  else if regno.extractLsb' 5 11 = 0x80 then
    let i : RegIdx := regno.extractLsb' 0 5
    if isWrite then .ok ((s.mapHartAt h fun x => x.setReg i s.dm.data0).registerDone cmd lost)
    else .ok (s.registerDone cmd ((s.hartAt h).reg i))
  else .ok (s.commandError 3)

/-- The access-memory command succeeded: `data0` as given, `data1` goes on if asked for, else it is free. -/
def State.memoryDone (s : State) (cmd data0 : Word) (n : Nat) : State :=
  { s with dm := { s.dm with
    data0 := data0
    data1 := if cmd.getLsbD 19 then s.dm.data1 + BitVec.ofNat 32 n else freeAbstractData 1 s.env.fresh } }

/-- The code a memory access of `n` bytes at `a` fails with (R241, 20_memory.md R327); none when it succeeds. -/
def State.memoryError (s : State) (a : Word) (n : Nat) (isWrite : Bool) : Option (BitVec 3) :=
  let x := a.toNat
  let c := s.cfg
  let narrow := inIccm c x || inPic c x
  let block := narrow || inDccm c x
  if narrow && n != 4 then some 3
  else if block && x % n != 0 then some 7
  else if !block && (iRegion c x || dRegion c x) then some 3
  else if block && !inPic c x && s.eccFault isWrite x n then some 3
  else if !block && (x % n != 0 || !s.busAnswers (if isWrite then .write else .read) x n ||
    !windowsAllow c.dataWindows x (x + n - 1)) then some 5
  else none

/-- The value at `a` as hart `h` reads it (R241). -/
def State.debugRead (s : State) (h : HartId) (a : Word) (n : Nat) : Word :=
  if inPic s.cfg a.toNat then s.picRead h (a.toNat - picBase s.cfg) else BitVec.ofNat 32 (memReadN s.mem a n)

/-- A store by the debugger as one of the harts: PIC, closely-coupled memory (any reservation on the word is lost), or
SoC memory (R241). -/
def State.debugWrite (s : State) (a v : Word) (n : Nat) : State :=
  if inPic s.cfg a.toNat then s.picWrite (a.toNat - picBase s.cfg) v
  else if inIccm s.cfg a.toNat || inDccm s.cfg a.toNat then
    ((s.ccmWrite a v n).mapHartAt .t0 fun x => x.seeStore a.toNat n).mapHartAt .t1 fun x => x.seeStore a.toNat n
  else { s with mem := memWriteN s.mem a v n }

/-- A value of `bits` bits below free ones (R247). -/
def belowFree (bits v : Nat) (f : DWord) : DWord :=
  BitVec.ofNat 64 (v + f.toNat / 2 ^ bits * 2 ^ bits)

/-- The access-memory command on hart `h` (R241). The bits of `data0` above those read are free (93 U27, log entry 21). -/
def State.accessMemory (s : State) (h : HartId) (cmd : Word) : State :=
  let size := (cmd.extractLsb' 20 3).toNat
  let n := 2 ^ size
  let a := s.dm.data1
  if 2 < size then s.commandError 2
  else
    match s.memoryError a n (cmd.getLsbD 16) with
    | some e => s.commandError e
    | none =>
      if cmd.getLsbD 16 then (s.debugWrite a s.dm.data0 n).memoryDone cmd (freeAbstractData 0 s.env.fresh) n
      else
        let v := belowFree (8 * n) (s.debugRead h a n).toNat ((freeAbstractData 0 s.env.fresh).setWidth 64)
        s.memoryDone cmd (v.setWidth 32) n

/-- The command in `command` is executed on hart `h` (R240, R241). An unknown command type is reported before a hart that is not
halted (log entry 61). -/
def State.execCommand (s : State) (h : HartId) : Except Refusal State :=
  let cmd := s.dm.command
  if cmd.extractLsb' 24 8 != 0 && cmd.extractLsb' 24 8 != 2 then .ok (s.commandError 2)
  else if !s.halted h then .ok (s.commandError 4)
  else if cmd.extractLsb' 24 8 = 0 then s.accessRegister h cmd
  else .ok (s.accessMemory h cmd)

/-- The command in `command` is started (R240, R243): nothing while `cmderr` is set. It is done at once, or stays in progress
(R242, log entry 30). -/
def State.runCommand (s : State) : Except Refusal State :=
  let h := if s.cfg.dualThread then s.dm.hartsel else .t0
  if s.dm.cmderr != 0 then .ok s
  else if s.env.slowDebug then .ok { s with dm := { s.dm with running := some h } }
  else s.execCommand h

/-- The debugger used a register of a command that executes (R240, R242 to R244): `cmderr` says so, and nothing else happens. -/
def State.commandBusy (s : State) : State := { s with dm := s.dm.noteError 1 }

/-- An access to `data0` or `data1` runs the command again if its bit of `abstractauto` is set (R243). -/
def State.autoRun (s : State) (i : Nat) : Except Refusal State :=
  if s.dm.autoexec.getLsbD i then s.runCommand else .ok s

/-! ## System bus access (R245 to R247) -/

/-- The code a system bus access fails with; none when it succeeds. The order of the codes, and that any error
response of the SoC is code 2, is log entry 61. -/
def State.systemBusError (s : State) (op : SbOp) : Option (BitVec 3) :=
  let size := s.dm.sbAccess.toNat
  let a := s.dm.sbAddress0.toNat
  if 3 < size then some 4
  else if a % 2 ^ size != 0 then some 3
  else if !s.busAnswers (match op with | .read => .debugRead | .write => .debugWrite) a (2 ^ size) then some 2
  else none

/-- The address after a successful access. -/
def DebugModule.sbNext (d : DebugModule) : Word :=
  if d.sbAutoIncrement then d.sbAddress0 + BitVec.ofNat 32 (2 ^ d.sbAccess.toNat) else d.sbAddress0

/-- A system bus access is done: a read into `sbdata0` and `sbdata1`, or a write from them (R246, R247). -/
def State.systemBusDone (s : State) (op : SbOp) : State :=
  match s.systemBusError op with
  | some e => { s with dm := { s.dm with sbError := e } }
  | none =>
    let n := 2 ^ s.dm.sbAccess.toNat
    match op with
    | .read =>
      let v := belowFree (8 * n) (memReadN s.mem s.dm.sbAddress0 n) (freeBusData s.env.fresh)
      { s with dm := { s.dm with
        sbData0 := v.extractLsb' 0 32
        sbData1 := v.extractLsb' 32 32
        sbAddress0 := s.dm.sbNext } }
    | .write =>
      let m := memWriteN s.mem s.dm.sbAddress0 s.dm.sbData0 (min n 4)
      { s with
        mem := if n = 8 then memWriteN m (s.dm.sbAddress0 + 4) s.dm.sbData1 4 else m
        dm := { s.dm with sbAddress0 := s.dm.sbNext } }

/-- A system bus access is started (R245 to R247): nothing while an error is set. It is done at once, or stays in progress. -/
def State.systemBus (s : State) (op : SbOp) : State :=
  if s.dm.sbBusyError || s.dm.sbError != 0 then s
  else if s.env.slowDebug then { s with dm := { s.dm with sbBusy := some op } }
  else s.systemBusDone op

/-- The debugger used a data or address register while a system bus access is in progress (R245 to R247). -/
def State.systemBusBusy (s : State) : State := { s with dm := { s.dm with sbBusyError := true } }

/-- What the Debug Module has in progress is done, the bus access first (log entry 30). -/
def State.finishDebug (s : State) : Except Refusal State :=
  let s1 := match s.dm.sbBusy with
    | some op => { s with dm := { s.dm with sbBusy := none } }.systemBusDone op
    | none => s
  match s1.dm.running with
  | some h => { s1 with dm := { s1.dm with running := none } }.execCommand h
  | none => .ok s1

/-! ## The Debug Module Interface (R236) -/

/-- A read of a register: the value, and the state after it. While a command executes or a system bus access is in progress, a read of
its data gives no value that the spec states, and is noted as an error (R244, R247; log entry 62). -/
def State.dmiRead (s : State) (addr : BitVec 7) : Except Refusal (Word × State) :=
  let d := s.dm
  match addr.toNat with
  | 0x04 => if d.running.isSome then .ok (freeDmiData s.env.fresh, s.commandBusy)
    else (s.autoRun 0).map fun t => (d.data0, t)
  | 0x05 => if d.running.isSome then .ok (freeDmiData s.env.fresh, s.commandBusy)
    else (s.autoRun 1).map fun t => (d.data1, t)
  | 0x10 => .ok (d.dmcontrol, s)
  | 0x11 => .ok (s.dmstatus, s)
  | 0x14 => .ok (0, s)
  | 0x15 => .ok (d.hawindow.setWidth 32, s)
  | 0x16 => .ok (d.abstractcs, s)
  | 0x17 => .ok (d.command, s)
  | 0x18 => .ok (d.autoexec.setWidth 32, s)
  | 0x38 => .ok (d.sbcs, s)
  | 0x39 => .ok (d.sbAddress0, s)
  | 0x3C => .ok (if d.sbBusy.isSome then (freeDmiData s.env.fresh, s.systemBusBusy)
    else (d.sbData0, if d.sbReadOnData then s.systemBus .read else s))
  | 0x3D => .ok (if d.sbBusy.isSome then (freeDmiData s.env.fresh, s.systemBusBusy) else (d.sbData1, s))
  | 0x40 => .ok ((BitVec.ofBool (s.cfg.dualThread && s.halted .t1) ++ BitVec.ofBool (s.halted .t0)).setWidth 32, s)
  | _ => .ok (freeDmiData s.env.fresh, s)

/-- The fields of `sbcs` that a write of `w` changes (R245). -/
def DebugModule.writeSbcs (d : DebugModule) (w : Word) : DebugModule :=
  { d with
    sbBusyError := d.sbBusyError && !w.getLsbD 22
    sbReadOnAddr := w.getLsbD 20
    sbAccess := w.extractLsb' 17 3
    sbAutoIncrement := w.getLsbD 16
    sbReadOnData := w.getLsbD 15
    sbError := d.sbError &&& ~~~w.extractLsb' 12 3 }

/-- A write of `w` to a register; an inactive module takes only `dmcontrol` (R237). While a command executes, a write to its registers
is only noted as an error (R240, R242 to R244; that `abstractauto` keeps its value is log entry 62); while a system bus access is in
progress, one to its address or data is (R246, R247), and one to `sbcs` is the debugger's broken obligation (93 U26). A write to
`sbdata0` stores its value even where an earlier error keeps the bus write from being started (R247; log entry 62). -/
def State.dmiWrite (s : State) (addr : BitVec 7) (w : Word) : Except Refusal State :=
  let d := s.dm
  if addr = 0x10 then .ok (s.writeDmcontrol w)
  else if !d.dmactive then .ok s
  else
    match addr.toNat with
    | 0x04 => if d.running.isSome then .ok s.commandBusy else { s with dm := { d with data0 := w } }.autoRun 0
    | 0x05 => if d.running.isSome then .ok s.commandBusy else { s with dm := { d with data1 := w } }.autoRun 1
    | 0x15 => .ok { s with dm := { d with hawindow := w.setWidth 2 &&& (if s.cfg.dualThread then 3 else 1) } }
    | 0x16 => .ok (if d.running.isSome then s.commandBusy
      else { s with dm := { d with cmderr := d.cmderr &&& ~~~w.extractLsb' 8 3 } })
    | 0x17 => if d.running.isSome then .ok s.commandBusy
      else if d.cmderr != 0 then .ok s
      else { s with dm := { d with command := w } }.runCommand
    | 0x18 => .ok (if d.running.isSome then s.commandBusy else { s with dm := { d with autoexec := w.setWidth 2 } })
    | 0x38 => if d.sbBusy.isSome then .error (.brokenObligation "R245") else .ok { s with dm := d.writeSbcs w }
    | 0x39 =>
      let s1 := { s with dm := { d with sbAddress0 := w } }
      .ok (if d.sbBusy.isSome then s.systemBusBusy else if d.sbReadOnAddr then s1.systemBus .read else s1)
    | 0x3C => .ok (if d.sbBusy.isSome then s.systemBusBusy
      else { s with dm := { d with sbData0 := w } }.systemBus .write)
    | 0x3D => .ok (if d.sbBusy.isSome then s.systemBusBusy else { s with dm := { d with sbData1 := w } })
    | _ => .ok s

/-! ## JTAG (R235) -/

/-- What a scan of the data register that `ir` selects captures. -/
def State.jtagCapture (s : State) (ir : BitVec 5) : BitVec 41 :=
  match ir.toNat with
  | 0x01 => (s.cfg.jtagId ++ 1#1).setWidth 41
  | 0x10 => 0x71
  | 0x11 => s.dm.dmiAddress ++ s.dm.dmiData ++ 0#2
  | _ => 0

/-- A scan: the capture goes out, `dr` comes in and starts the operation in its `op` field. `op` = 3 is a no-operation
(93 section 2). After a write or a no-operation the `data` field holds what was scanned in (log entry 70). -/
def State.jtagScan (s : State) (ir : BitVec 5) (dr : BitVec 41) : Except Refusal State :=
  let s1 := { s with dm := { s.dm with jtagOut := s.jtagCapture ir } }
  if ir = 0x11 then
    let addr : BitVec 7 := dr.extractLsb' 34 7
    let w : Word := dr.extractLsb' 2 32
    let s2 := { s1 with dm := { s1.dm with dmiAddress := addr, dmiData := w } }
    if dr.extractLsb' 0 2 = 1 then
      (s2.dmiRead addr).map fun r => { r.2 with dm := { r.2.dm with dmiData := r.1 } }
    else if dr.extractLsb' 0 2 = 2 then s2.dmiWrite addr w
    else .ok s2
  else .ok s1

end Sys2Proof.Machine
end

