-- ==== Sys2Proof/Machine/Events.lean ====
section
/-! DEFINITION. The moves of the environment (92_eei_decisions.md section 3): pins, resets, DMA, other bus masters, injected
errors, and its standing choices of time and order. A move the spec makes an obligation not to make is refused by name. -/

namespace Sys2Proof.Machine

/-! ## Handshakes (62 R814, R833) -/

/-- The acknowledges of one hart: each follows its request once the hart has done what was asked, and is held until the request
is released. The MPC's run acknowledge waits for the PMU's run request when a PMU halt was still pending. -/
def Pins.handshake (p : Pins) (x : Hart) : Pins :=
  { p with
    cpuHaltAck := p.cpuHaltReq && (p.cpuHaltAck || decide (x.activity = .sleep))
    cpuRunAck := p.cpuRunReq && (p.cpuRunAck || decide (x.activity = .running))
    mpcHaltAck := p.mpcHaltReq && (p.mpcHaltAck || (decide (x.activity = .dbHalt) && x.dbg.mpcHaltState))
    mpcRunAck := p.mpcRunReq && (p.mpcRunAck || (decide (x.activity = .running) && !x.power.mpcRunOwed)) }

/-- The acknowledges of both harts. -/
def State.handshakes (s : State) : State :=
  { s with pins := ⟨s.pins.t0.handshake s.harts.t0, s.pins.t1.handshake s.harts.t1⟩ }

/-- The pins of hart `h` changed. -/
def State.mapPins (s : State) (h : HartId) (f : Pins → Pins) : State :=
  { s with pins := s.pins.set h (f (s.pins.get h)) }

/-- The PMU drives its halt request (R814, R813): it stays pending until the hart honours it. -/
def State.pmuHalt (s : State) (h : HartId) (level : Bool) : Except Refusal State :=
  let p := s.pins.get h
  let x := s.hartAt h
  if p.cpuHaltReq = level then .ok s
  else if level then
    if p.cpuRunReq then .error (.brokenObligation "R814")
    else .ok ((s.mapPins h fun q => { q with cpuHaltReq := true }).mapHartAt h fun y =>
      { y with power := { y.power with pmuHaltPending := decide (y.activity ≠ .sleep) } })
  else if !p.cpuHaltAck && decide (x.activity = .running) && !s.heldInReset then .error (.brokenObligation "R814")
  else .ok ((s.mapPins h fun q => { q with cpuHaltReq := false }).mapHartAt h fun y =>
      { y with power := { y.power with pmuHaltPending := false } })

/-- The PMU drives its run request (R814, R817): a sleeping hart wakes. A request that is withdrawn before its acknowledge, which only a
hart in DbHalt or Idle withholds, is accepted without further effect (log entry 42). -/
def State.pmuRun (s : State) (h : HartId) (level : Bool) : Except Refusal State :=
  let p := s.pins.get h
  if p.cpuRunReq = level then .ok s
  else if level && p.cpuHaltReq then .error (.brokenObligation "R814")
  else .ok ((s.mapPins h fun q => { q with cpuRunReq := level }).mapHartAt h fun y =>
      if level then
        { y with
          activity := if y.activity = .sleep then .running else y.activity
          reservation := if y.activity = .sleep then none else y.reservation
          power := { y.power with mpcRunOwed := false } }
      else y)

/-- The MPC drives its debug halt request (R833). -/
def State.mpcHalt (s : State) (h : HartId) (level : Bool) : Except Refusal State :=
  let p := s.pins.get h
  let x := s.hartAt h
  if p.mpcHaltReq = level then .ok s
  else if level then
    if x.dbg.mpcHaltState || x.power.mpcHaltPending then .error (.brokenObligation "R833")
    else .ok ((s.mapPins h fun q => { q with mpcHaltReq := true }).mapHartAt h fun y =>
      if y.activity = .dbHalt then { y with dbg := { y.dbg with mpcHaltState := true } }
      else { y with power := { y.power with mpcHaltPending := true } })
  else if !p.mpcHaltAck && decide (x.activity ≠ .idle) && !s.heldInReset then .error (.brokenObligation "R833")
  else .ok ((s.mapPins h fun q => { q with mpcHaltReq := false }).mapHartAt h fun y =>
      { y with power := { y.power with mpcHaltPending := false } })

/-- The MPC drives its debug run request (R833): only in Debug Mode; ignored by a hart that the MPC does not hold. It may not be withdrawn
while the hart has still to act on it or to acknowledge it. -/
def State.mpcRun (s : State) (h : HartId) (level : Bool) : Except Refusal State :=
  let p := s.pins.get h
  let x := s.hartAt h
  if p.mpcRunReq = level then .ok s
  else if level then
    if s.heldInReset || (decide (x.activity ≠ .dbHalt) && !x.dbg.stepping) || x.dbg.runPending then
      .error (.brokenObligation "R833")
    else .ok (((s.mapPins h fun q => { q with mpcRunReq := true }).mapHartAt h fun y =>
      { y with dbg := { y.dbg with runPending := y.dbg.mpcHaltState } }).tryResume h)
  else if x.dbg.runPending || (x.power.mpcRunOwed && !p.mpcRunAck) then .error (.brokenObligation "R833")
  else .ok ((s.mapPins h fun q => { q with mpcRunReq := false }).mapHartAt h fun y =>
      { y with power := { y.power with mpcRunOwed := false } })

/-- The NMI pin: a rising edge asks every hart that `mnmipdel` selects for an NMI (60_exceptions.md R691). An edge is seen however soon the
SoC withdraws the level, where 70 R872 leaves open whether a pulse that is too short is seen: the model's choice, log entry 73, which
speaks of the other pins too. -/
def State.nmiEdge (s : State) (level : Bool) : State :=
  let ask (x : Hart) (selected : Bool) : Hart :=
    { x with nmi := { x.nmi with pin := x.nmi.pin || (level && !s.nmiPin && selected && !s.heldInReset) } }
  { s with
    nmiPin := level
    harts := ⟨ask s.harts.t0 (s.shared.mnmipdel.getLsbD 0), ask s.harts.t1 (s.shared.mnmipdel.getLsbD 1)⟩ }

/-! ## Reset (70 R860 to R864) -/

/-- The reset state of a hart while the core is held in reset, with the requests that wait at its pins. -/
def Hart.inCoreReset (cfg : Config) (p : Pins) : Hart :=
  { Hart.resetWith cfg .idle with
    power := { PowerRegs.reset with pmuHaltPending := p.cpuHaltReq, mpcHaltPending := p.mpcHaltReq } }

/-- The pins with the core's acknowledges released. -/
def Pins.clearAcks (p : Pins) : Pins :=
  { p with cpuHaltAck := false, cpuRunAck := false, mpcHaltAck := false, mpcRunAck := false }

/-- The core complex reset is asserted (R860, R863): everything but the Debug Module, the memories and what the SoC
drives. -/
def State.resetCore (s : State) : State :=
  { State.resetWith s.cfg with
    inReset := s.inReset
    harts := ⟨Hart.inCoreReset s.cfg s.pins.t0, Hart.inCoreReset s.cfg s.pins.t1⟩
    pic := ⟨false, s.pic.sources.map fun x => { Source.reset with pin := x.pin }⟩
    dm := { s.dm with haveReset := ⟨true, true⟩ }
    mem := s.mem
    badWords := s.badWords
    pins := ⟨s.pins.t0.clearAcks, s.pins.t1.clearAcks⟩
    nmiPin := s.nmiPin
    dma := s.dma
    env := s.env }

/-- The core complex reset is released (R864). -/
def State.releaseReset (s : State) : State :=
  { s with
    cur := .t0
    harts := s.harts.set .t0
      { Hart.outOfReset s.cfg s.cfg.mpcResetRun0 s.dm.haltReq.t0 with power := s.harts.t0.power } }

/-- What the core does about its reset after a move: `was` tells whether it was held in reset before. -/
def State.followReset (s : State) (was : Bool) : State :=
  if s.heldInReset then (if was then s else s.resetCore)
  else if was then s.releaseReset else s

/-! ## DMA (20_memory.md R325, R326) -/

/-- The counters of a hart see DMA events 513 to 516 where they are enabled, and in Sleep (10_state.md R43, R46, R48). -/
def Hart.countDma (x : Hart) (evs : List Nat) : Hart :=
  if x.activity = .sleep then { x with ctr := x.ctr.count evs } else x.count evs

/-- Both harts see DMA events, but for counters held in reset. An access that gets an error response counts too (log entry 58). -/
def State.countDma (s : State) (evs : List Nat) : State :=
  if s.heldInReset then s
  else { s with harts := ⟨s.harts.t0.countDma evs, s.harts.t1.countDma evs⟩ }

/-- The `n` bytes at `a` lie in the ICCM or in the DCCM. -/
def inCcm (c : Config) (a n : Nat) : Bool :=
  (inIccm c a && inIccm c (a + n - 1)) || (inDccm c a && inDccm c (a + n - 1))

/-- A DMA read (R325, R321). -/
def State.dmaRead (s : State) (a : Word) (n : Nat) : State :=
  let s1 := s.countDma (513 :: if inDccm s.cfg a.toNat then [515] else [])
  let good := [1, 2, 4, 8].contains n && a.toNat % n == 0 && inCcm s.cfg a.toNat n && !s.eccFault false a.toNat n
  { s1 with dma := if good then .ok (BitVec.ofNat 64 (memReadN s.mem a n)) else .error }

/-- One word of a DMA write: a reservation on it is lost (42_a.md R462 (2)). -/
def State.dmaWord (s : State) (a v : Word) : State :=
  ((s.ccmWrite a v 4).mapHartAt .t0 fun x => x.seeStore a.toNat 4).mapHartAt .t1 fun x => x.seeStore a.toNat 4

/-- A DMA write (R325, 93 U30). `data` and `strobe` are those of the aligned double-word. An aligned 32-bit write whose byte enables are
not those of its word is refused like one with other byte enables (log entry 47). -/
def State.dmaWrite (s : State) (a : Word) (n : Nat) (strobe : BitVec 8) (data : DWord) : Except Refusal State :=
  let s1 := s.countDma (514 :: if inDccm s.cfg a.toNat then [516] else [])
  if n = 0 ∨ a.toNat % n ≠ 0 ∨ !inCcm s.cfg a.toNat n then .ok { s1 with dma := .error }
  else
    let base : Word := a &&& 0xFFFFFFF8
    let lo (t : State) : State := t.dmaWord base (data.extractLsb' 0 32)
    let hi (t : State) : State := t.dmaWord (base + 4) (data.extractLsb' 32 32)
    let done (t : State) : State := { t with dma := .ok 0 }
    if strobe = 0xFF ∧ n = 8 then .ok (done (hi (lo s1)))
    else if strobe = 0x0F ∧ (n = 8 ∨ (n = 4 ∧ a = base)) then .ok (done (lo s1))
    else if strobe = 0xF0 ∧ (n = 8 ∨ (n = 4 ∧ a ≠ base)) then .ok (done (hi s1))
    else .error (.brokenObligation "R885")

/-! ## Memory behind the core, injected errors -/

/-- Another bus master, or a device, changes a byte of bus memory (R266). -/
def State.socWrite (s : State) (a : Word) (v : Byte) : State :=
  if busMemory s.cfg a.toNat 1 then { s with mem := memWrite s.mem a.toNat v } else s

/-- An I-cache error in a set (20_memory.md R322); nothing while the core is held in reset (70 R863). -/
def State.icacheErrorAt (s : State) (set : Nat) : State :=
  if s.cfg.icacheEnable && !s.heldInReset then
    { s with
      shared := { s.shared with micect := bumpErrors s.shared.micect }
      icache := s.icache.invalidateSet set }
  else s

/-- Correctable errors of the closely-coupled memories are checked and counted: `mfdc.cecd` is 0 (11 R125) and the core is not held in
reset (70 R863). -/
def State.countsEcc (s : State) : Bool := !s.shared.mfdc.getLsbD 8 && !s.heldInReset

/-- A correctable error in the ICCM (R322). -/
def State.iccmErrorNow (s : State) : State :=
  if s.cfg.iccmEnable && s.countsEcc then
    { s with shared := { s.shared with miccmect := bumpErrors s.shared.miccmect } } else s

/-- A correctable error in the DCCM (R322). -/
def State.dccmErrorNow (s : State) : State :=
  if s.cfg.dccmEnable && s.countsEcc then
    { s with shared := { s.shared with mdccmect := bumpErrors s.shared.mdccmect } } else s

/-- A double-bit error in a word of closely-coupled memory or of SoC memory (R321). -/
def State.spoilWord (s : State) (a : Word) : State :=
  let w := wordAddr a.toNat
  if (inIccm s.cfg w || inDccm s.cfg w || busMemory s.cfg w 4) && !s.badWords.contains w then
    { s with badWords := w :: s.badWords } else s

/-- The SoC repairs a word of its memory (R321, R322). -/
def State.repairWord (s : State) (a : Word) : State :=
  let w := wordAddr a.toNat
  if busMemory s.cfg w 4 then { s with badWords := s.badWords.filter fun x => x != w } else s

/-- Hart `h` may be scheduled: the build has it and it is not idle. -/
def State.schedulable (s : State) (h : HartId) : Bool :=
  match h with
  | .t0 => true
  | .t1 => s.cfg.dualThread && decide (s.harts.t1.activity ≠ .idle)

/-- The environment with one of its choices changed. -/
def State.mapEnv (s : State) (f : Env → Env) : State := { s with env := f s.env }

/-- The debugger's pace changes; at the fast one nothing stays in progress. -/
def State.paceDebug (s : State) (slow : Bool) : Except Refusal State :=
  let s1 := s.mapEnv fun e => { e with slowDebug := slow }
  if slow then .ok s1 else s1.finishDebug

/-- One move, but for its consequences on reset and handshakes. -/
def State.move (s : State) : Event → Except Refusal State
  | .extInt n level => .ok { s with pic := s.pic.mapSource n fun x => { x with pin := level } }
  | .softInt h level => .ok (s.mapPins h fun p => { p with softInt := level })
  | .timerInt h level => .ok (s.mapPins h fun p => { p with timerInt := level })
  | .nmi level => .ok (s.nmiEdge level)
  | .cpuHaltReq h level => s.pmuHalt h level
  | .cpuRunReq h level => s.pmuRun h level
  | .mpcHaltReq h level => s.mpcHalt h level
  | .mpcRunReq h level => s.mpcRun h level
  | .coreReset asserted => .ok { s with inReset := asserted }
  | .debugReset => .ok { s with dm := s.dm.resetModule }
  | .jtagReset => .ok { s with dm := { s.dm with dmiAddress := 0, dmiData := 0, jtagOut := 0 } }
  | .jtagScan ir dr => s.jtagScan ir dr
  | .dmaRead a n => .ok (s.dmaRead a n)
  | .dmaWrite a n strobe data => s.dmaWrite a n strobe data
  | .socWrite a v => .ok (s.socWrite a v)
  | .icacheError set => .ok (s.icacheErrorAt set)
  | .iccmError => .ok s.iccmErrorNow
  | .dccmError => .ok s.dccmErrorNow
  | .doubleBitError a => .ok (s.spoilWord a)
  | .repair a => .ok (s.repairWord a)
  | .schedule h => .ok (if s.schedulable h then { s with cur := h } else s)
  | .pace n => .ok (s.mapEnv fun e => { e with extraTicks := n })
  | .hold h n => .ok (s.mapEnv fun e => { e with held := e.held.set h n })
  | .stall h st => .ok (s.mapEnv fun e => { e with stall := e.stall.set h st })
  | .split on => .ok (s.mapEnv fun e => { e with splits := on })
  | .debugPace slow => s.paceDebug slow
  | .proceed => .ok s

/-- One move of the environment. -/
def State.applyEvent (s : State) (e : Event) : Except Refusal State :=
  (s.move e).map fun t => (t.followReset s.heldInReset).handshakes

end Sys2Proof.Machine
end

