-- ==== Sys2Proof/Machine/Fetch.lean ====
section
/-! DEFINITION. Instruction fetch (20_memory.md R290 to R296, R303): the checks of each parcel, the ICCM, the bus and the
I-cache. -/

namespace Sys2Proof.Machine

/-- What a fetch gives: the bytes of an instruction, or the `mscause` and the address of the parcel that faulted. -/
inductive Fetched where
  | bytes (l : List Byte)
  | fault (mscause : BitVec 4) (addr : Word)
deriving DecidableEq, Repr

/-- The checks of a parcel at `p` in their order (R291); the `mscause` of the first that hits. The SoC is asked for every bus parcel, also
one whose line is in the I-cache (log entry 66). -/
def State.fetchFault (s : State) (p : Nat) : Option (BitVec 4) :=
  if iRegion s.cfg p && !inIccm s.cfg p then some 2
  else if !iRegion s.cfg p && !windowsAllow s.cfg.instWindows p (p + 1) then some 3
  else if !iRegion s.cfg p && !s.busAnswers .fetch p 2 then some 9
  else if inIccm s.cfg p && !s.shared.mfdc.getLsbD 8 && s.badWords.contains (wordAddr p) then some 1
  else none

/-- The parcel is fetched by way of the I-cache (R294): a bus address in a cacheable region, in a line that the platform
answers with memory. -/
def State.usesCache (s : State) (p : Nat) : Bool :=
  s.cfg.icacheEnable && !inIccm s.cfg p && s.cacheableAt s.cur p &&
    s.busAnswers .fetch (p / cacheLine s.cfg * cacheLine s.cfg) (cacheLine s.cfg)

/-- The parcel at `p`, which passed its checks (R290). One memory stands behind the buses of instructions and data (93 U6, log entry
24). The bytes are those of the step that executes the instruction: none was fetched ahead (R296, log entry 32). -/
def State.parcelAt (s : State) (p : Word) : BitVec 16 × State :=
  if s.usesCache p.toNat then s.cacheFetch p.toNat else (BitVec.ofNat 16 (memReadN s.mem p 2), s)

/-- The two bytes of a parcel in memory order (R261). -/
def parcelBytes (p : BitVec 16) : List Byte := [p.extractLsb' 0 8, p.extractLsb' 8 8]

/-- `Fetch(pc)` for the executing hart (R290, R303): one parcel, or two when the first is not a 16-bit instruction. -/
def State.fetch (s : State) : Fetched × State :=
  let pc := s.pc
  match s.fetchFault pc.toNat with
  | some c => (.fault c pc, s)
  | none =>
    let lo := s.parcelAt pc
    if isCompressed lo.1 then (.bytes (parcelBytes lo.1), lo.2)
    else
      match lo.2.fetchFault (pc + 2).toNat with
      | some c => (.fault c (pc + 2), lo.2)
      | none =>
        let hi := lo.2.parcelAt (pc + 2)
        (.bytes (parcelBytes lo.1 ++ parcelBytes hi.1), hi.2)

/-- The next fetch of hart `h` needs the fetch bus. -/
def State.fetchOnBus (s : State) (h : HartId) : Bool := !inIccm s.cfg (s.hartAt h).pc.toNat

/-- What `mtval` shows for bytes that are no instruction (60_exceptions.md R652). -/
def Reject.bits : Reject → Word
  | .truncated => 0
  | .illegalWord w => w
  | .illegalParcel p => p.setWidth 32

/-- The memory with an instruction of `nbits` bits, the bits `w` of an opcode-table row, at `a`. -/
def placeInstr (m : List Host.Cell) (a : Word) (nbits w : Nat) : List Host.Cell :=
  memWriteN m a (BitVec.ofNat 32 (w % 2 ^ nbits)) 4

end Sys2Proof.Machine
end

