-- ==== Sys2Proof/Machine/Timers.lean ====
section
/-! DEFINITION. Clock ticks (70 R890): the internal timers (62 R780 to R786), the cycle and event counters (Counters.lean), the
forced-debug-halt timeout (11 R122) and the pause countdown (62 R820). -/

namespace Sys2Proof.Machine

/-- The hart is executing PAUSE (62 R820). -/
def Hart.pausing (h : Hart) : Bool := decide (h.activity = .running) && (h.power.pauseCount != 0)

/-- The increment conditions 1 to 4 and 6 of a timer (R781); the hart is started. The timers of hart 1 wait for its first instruction
(11 R118, log entry 55). -/
def Timer.incOk (t : Timer) (h : Hart) : Bool :=
  t.enable && !h.starting &&
  match h.activity with
  | .running => !h.pausing || t.pauseEn
  | .sleep => t.haltEn
  | .dbHalt => false
  | .idle => false

/-- The timer is at or above its bound in this cycle; a write that commits in it does not hide that (R782, R783). -/
def Timer.fires (t : Timer) : Bool :=
  match t.written with
  | some m => m
  | none => t.matches

/-- One clock cycle of a timer (R782, R783), with `mit_hold` (R784): kept or set only while `takeable`. -/
def Timer.tick (t : Timer) (incOk takeable : Bool) : Timer :=
  { t with
    cnt := if t.written.isSome then t.cnt else if t.matches then 0 else if incOk then t.cnt + 1 else t.cnt
    hold := (t.hold || t.fires) && takeable
    written := none }

/-- One tick of the started hart with number `id`, which sees the registers as the step leaves them (log entry 64); `waits` tells whether
the forced-debug-halt timeout counts (11 R122, 62 R822). -/
def Hart.tick (h : Hart) (id : Nat) (waits : Bool) (tick fresh : Nat) : Hart :=
  let takeable (bit : Nat) : Bool :=
    h.trap.mstatusMie && h.trap.mie.getLsbD bit && decide (h.activity ≠ .dbHalt)
  let pulse := (h.tim0.fires && h.trap.mie.getLsbD 29) || (h.tim1.fires && h.trap.mie.getLsbD 28)
  { h with
    ctr := { h.ctr.keepWritten (h.tickCounters id tick fresh) with written := none }
    tim0 := h.tim0.tick (h.tim0.incOk h) (takeable 29)
    tim1 := h.tim1.tick (h.tim1.incOk h && (!h.tim1.cascade || h.tim0.fires)) (takeable 28)
    nmi := { h.nmi with loadNow := false }
    dbg := { h.dbg with timeout := if waits then h.dbg.timeout + 1 else h.dbg.timeout }
    power := { h.power with
      pauseCount := if h.pausing then (if pulse then 0 else h.power.pauseCount - 1) else h.power.pauseCount } }

/-- `n` ticks; nothing of an idle hart counts (R43, R118, R781 (6)). -/
def Hart.ticks (h : Hart) (id : Nat) (waits : Bool) (fresh : Nat) : Nat → Hart
  | 0 => h
  | n + 1 => if h.activity = .idle then h else (h.ticks id waits fresh n).tick id waits n fresh

end Sys2Proof.Machine
end

