-- ==== Sys2Proof/Machine/Interrupts.lean ====
section
/-! DEFINITION. Interrupts and NMIs: which one a hart takes at an instruction boundary (60_exceptions.md R660 to R668), the
fast interrupt redirect (R672, R693), and what wakes a hart or ends a pause (62 R817, R820). -/

namespace Sys2Proof.Machine

/-- An interrupt is enabled in `mie` of the hart. -/
def Hart.enabled (h : Hart) (bit : Nat) : Bool := h.trap.mie.getLsbD bit

/-- The internal timer's interrupt is pending: in its cycle, or held (62 R784). -/
def Timer.pending (t : Timer) : Bool := t.matches || t.hold

/-- The highest-ranked pending and enabled interrupt of hart `h`, as its `mcause` (R660, R661). -/
def State.pendingInterrupt (s : State) (h : HartId) : Option Word :=
  let x := s.hartAt h
  if x.enabled 11 && s.extIrq h then some 0x8000000B
  else if x.enabled 30 && s.shared.errorIrq then some 0x8000001E
  else if x.enabled 3 && (s.pins.get h).softInt then some 0x80000003
  else if x.enabled 7 && (s.pins.get h).timerInt then some 0x80000007
  else if x.enabled 29 && x.tim0.pending then some 0x8000001D
  else if x.enabled 28 && x.tim1.pending then some 0x8000001C
  else none

/-- The interrupt that the hart takes at this boundary (R660): interrupts are enabled, and it is not a single step with
`dcsr.stepie` = 0. -/
def State.interruptToTake (s : State) (h : HartId) : Option Word :=
  let x := s.hartAt h
  if x.trap.mstatusMie && !(x.dbg.stepping && !x.dbg.stepie) then s.pendingInterrupt h else none

/-- NMI entry (R692). -/
def State.takeNmi (s : State) (h : HartId) (mcause : Word) : State :=
  s.mapHartAt h fun x => x.interrupt mcause (nmiVector s.cfg) []

/-- A pending NMI of hart `h` is taken, the pin's first (R692, R694); its request is cleared. -/
def State.takePendingNmi (s : State) (h : HartId) : State :=
  let x := s.hartAt h
  if x.nmi.pin then (s.mapHartAt h fun y => { y with nmi := { y.nmi with pin := false } }).takeNmi h 0
  else
    let c : Word := match x.nmi.bus with
      | some .load => 0xF0000001
      | _ => 0xF0000000
    (s.mapHartAt h fun y => { y with nmi := { y.nmi with bus := none } }).takeNmi h c

/-- The external interrupt with the fast interrupt redirect (R672, R693): the claim, the read of the vector table in the DCCM,
and the jump, or the NMI that names why the read failed. -/
def State.redirect (s : State) (h : HartId) : State :=
  let s1 := s.captureClaim h
  let x := s1.hartAt h
  let p : Word := x.pic.vecBase ++ x.pic.claimId ++ 0#2
  if !(s.cfg.dccmEnable && regionOf p.toNat == s.cfg.dccmRegion.toNat) then s1.takeNmi h 0xF0001002
  else if !(inDccm s.cfg p.toNat && inDccm s.cfg (p.toNat + 3)) then s1.takeNmi h 0xF0001001
  else if s.eccFault false p.toNat 4 then s1.takeNmi h 0xF0001000
  else s1.mapHartAt h fun y => y.interrupt 0x8000000B (memReadWord s.mem p &&& 0xFFFFFFFE) [39]

/-- The events that count a taken interrupt (10_state.md R48 events 38 and 39). -/
def interruptEvents (mcause : Word) : List Nat :=
  if mcause = 0x8000000B then [39]
  else if mcause = 0x80000007 ∨ mcause = 0x8000001D ∨ mcause = 0x8000001C then [38]
  else []

/-- Hart `h` takes the interrupt `mcause` (R670 to R672); a taken timer interrupt is held no more (62 R784). -/
def State.takeInterrupt (s : State) (h : HartId) (mcause : Word) : State :=
  if mcause = 0x8000000B && s.cfg.fastRedirect then s.redirect h
  else
    s.mapHartAt h fun x =>
      let y := x.interrupt mcause (trapVector x.trap.mtvec mcause) (interruptEvents mcause)
      { y with
        tim0 := { y.tim0 with hold := y.tim0.hold && mcause != 0x8000001D }
        tim1 := { y.tim1 with hold := y.tim1.hold && mcause != 0x8000001C } }

/-- What wakes a sleeping hart besides the PMU and the debugger (62 R817 conditions 2 to 6, D28); any pending NMI does,
a bus error's too (log entry 69). -/
def State.wakes (s : State) (h : HartId) : Bool :=
  let x := s.hartAt h
  x.nmi.pending ||
    (x.trap.mstatusMie &&
      ((x.enabled 11 && s.wakeup h) || (x.enabled 3 && (s.pins.get h).softInt) ||
        (x.enabled 7 && (s.pins.get h).timerInt) || (x.enabled 29 && x.tim0.pending) ||
        (x.enabled 28 && x.tim1.pending)))

/-- What ends a pause before its count does (62 R820, D29). -/
def State.endsPause (s : State) (h : HartId) : Bool :=
  (s.hartAt h).nmi.pending || (s.pendingInterrupt h).isSome

end Sys2Proof.Machine
end

