-- ==== Sys2Proof/Machine/Triggers.lean ====
section
/-! DEFINITION. The triggers: what an instruction offers for comparison (62 R841, 92 D31), when a trigger fires (R842,
R843) and what is recorded (R844). -/

namespace Sys2Proof.Machine

/-- What an instruction does to memory, as the triggers see it. -/
inductive Access where
  | nothing
  | load (addr : Word)
  | store (addr data : Word)
  | both (addr data : Word)
deriving DecidableEq, Repr

/-- Store data, zero-extended from the store's size (R841). -/
def storeData (v : Word) (n : Nat) : Word := BitVec.ofNat 32 (v.toNat % 2 ^ (8 * n))

/-- An atomic that the build does not have is an illegal instruction and offers nothing (60_exceptions.md R651). -/
def atomicAccess (s : State) (a : Access) : Access := if atomicsBuilt s.cfg then a else .nothing

/-- The access of an instruction (R841, D31). -/
def accessOf (s : State) : Instr → Access
  | .lui _ _ => .nothing
  | .auipc _ _ => .nothing
  | .jal _ _ => .nothing
  | .jalr _ _ _ => .nothing
  | .beq _ _ _ => .nothing
  | .bne _ _ _ => .nothing
  | .blt _ _ _ => .nothing
  | .bge _ _ _ => .nothing
  | .bltu _ _ _ => .nothing
  | .bgeu _ _ _ => .nothing
  | .lb _ rs1 imm => .load (s.reg rs1 + sext12 imm)
  | .lh _ rs1 imm => .load (s.reg rs1 + sext12 imm)
  | .lw _ rs1 imm => .load (s.reg rs1 + sext12 imm)
  | .lbu _ rs1 imm => .load (s.reg rs1 + sext12 imm)
  | .lhu _ rs1 imm => .load (s.reg rs1 + sext12 imm)
  | .sb rs2 rs1 imm => .store (s.reg rs1 + sext12 imm) (storeData (s.reg rs2) 1)
  | .sh rs2 rs1 imm => .store (s.reg rs1 + sext12 imm) (storeData (s.reg rs2) 2)
  | .sw rs2 rs1 imm => .store (s.reg rs1 + sext12 imm) (storeData (s.reg rs2) 4)
  | .addi _ _ _ => .nothing
  | .slti _ _ _ => .nothing
  | .sltiu _ _ _ => .nothing
  | .xori _ _ _ => .nothing
  | .ori _ _ _ => .nothing
  | .andi _ _ _ => .nothing
  | .slli _ _ _ => .nothing
  | .srli _ _ _ => .nothing
  | .srai _ _ _ => .nothing
  | .add _ _ _ => .nothing
  | .sub _ _ _ => .nothing
  | .sll _ _ _ => .nothing
  | .slt _ _ _ => .nothing
  | .sltu _ _ _ => .nothing
  | .xor _ _ _ => .nothing
  | .srl _ _ _ => .nothing
  | .sra _ _ _ => .nothing
  | .or _ _ _ => .nothing
  | .and _ _ _ => .nothing
  | .fence _ _ _ _ _ => .nothing
  | .ecall => .nothing
  | .ebreak => .nothing
  | .mul _ _ _ => .nothing
  | .mulh _ _ _ => .nothing
  | .mulhsu _ _ _ => .nothing
  | .mulhu _ _ _ => .nothing
  | .div _ _ _ => .nothing
  | .divu _ _ _ => .nothing
  | .rem _ _ _ => .nothing
  | .remu _ _ _ => .nothing
  | .lrW _ rs1 _ _ => atomicAccess s (.load (s.reg rs1))
  | .scW _ rs1 rs2 _ _ => atomicAccess s (.store (s.reg rs1) (s.reg rs2))
  | .amoswapW _ rs1 _ _ _ => atomicAccess s (.both (s.reg rs1) (freeAmoTriggerData s.env.fresh))
  | .amoaddW _ rs1 _ _ _ => atomicAccess s (.both (s.reg rs1) (freeAmoTriggerData s.env.fresh))
  | .amoxorW _ rs1 _ _ _ => atomicAccess s (.both (s.reg rs1) (freeAmoTriggerData s.env.fresh))
  | .amoandW _ rs1 _ _ _ => atomicAccess s (.both (s.reg rs1) (freeAmoTriggerData s.env.fresh))
  | .amoorW _ rs1 _ _ _ => atomicAccess s (.both (s.reg rs1) (freeAmoTriggerData s.env.fresh))
  | .amominW _ rs1 _ _ _ => atomicAccess s (.both (s.reg rs1) (freeAmoTriggerData s.env.fresh))
  | .amomaxW _ rs1 _ _ _ => atomicAccess s (.both (s.reg rs1) (freeAmoTriggerData s.env.fresh))
  | .amominuW _ rs1 _ _ _ => atomicAccess s (.both (s.reg rs1) (freeAmoTriggerData s.env.fresh))
  | .amomaxuW _ rs1 _ _ _ => atomicAccess s (.both (s.reg rs1) (freeAmoTriggerData s.env.fresh))
  | .csrrw _ _ _ => .nothing
  | .csrrs _ _ _ => .nothing
  | .csrrc _ _ _ => .nothing
  | .csrrwi _ _ _ => .nothing
  | .csrrsi _ _ _ => .nothing
  | .csrrci _ _ _ => .nothing
  | .fenceI _ _ _ => .nothing
  | .mret => .nothing
  | .wfi => .nothing
  | .sh1add _ _ _ => .nothing
  | .sh2add _ _ _ => .nothing
  | .sh3add _ _ _ => .nothing
  | .clz _ _ => .nothing
  | .ctz _ _ => .nothing
  | .cpop _ _ => .nothing
  | .min _ _ _ => .nothing
  | .minu _ _ _ => .nothing
  | .max _ _ _ => .nothing
  | .maxu _ _ _ => .nothing
  | .sextB _ _ => .nothing
  | .sextH _ _ => .nothing
  | .zextH _ _ => .nothing
  | .andn _ _ _ => .nothing
  | .orn _ _ _ => .nothing
  | .xnor _ _ _ => .nothing
  | .rol _ _ _ => .nothing
  | .ror _ _ _ => .nothing
  | .rori _ _ _ => .nothing
  | .rev8 _ _ => .nothing
  | .orcB _ _ => .nothing
  | .clmul _ _ _ => .nothing
  | .clmulh _ _ _ => .nothing
  | .clmulr _ _ _ => .nothing
  | .bset _ _ _ => .nothing
  | .bseti _ _ _ => .nothing
  | .bclr _ _ _ => .nothing
  | .bclri _ _ _ => .nothing
  | .binv _ _ _ => .nothing
  | .binvi _ _ _ => .nothing
  | .bext _ _ _ => .nothing
  | .bexti _ _ _ => .nothing
  | .bcompress _ _ _ => .nothing
  | .bdecompress _ _ _ => .nothing
  | .pack _ _ _ => .nothing
  | .packh _ _ _ => .nothing
  | .bfp _ _ _ => .nothing
  | .packu _ _ _ => .nothing
  | .grev _ _ _ => .nothing
  | .grevi _ _ _ => .nothing
  | .gorc _ _ _ => .nothing
  | .gorci _ _ _ => .nothing
  | .shfl _ _ _ => .nothing
  | .shfli _ _ _ => .nothing
  | .unshfl _ _ _ => .nothing
  | .unshfli _ _ _ => .nothing
  | .xpermN _ _ _ => .nothing
  | .xpermB _ _ _ => .nothing
  | .xpermH _ _ _ => .nothing
  | .crc32B _ _ => .nothing
  | .crc32H _ _ => .nothing
  | .crc32W _ _ => .nothing
  | .crc32cB _ _ => .nothing
  | .crc32cH _ _ => .nothing
  | .crc32cW _ _ => .nothing
  | .cAddi4spn _ _ => .nothing
  | .cLw _ rs1 imm => .load (s.reg (cReg rs1) + cWordOffset imm)
  | .cSw rs2 rs1 imm => .store (s.reg (cReg rs1) + cWordOffset imm) (s.reg (cReg rs2))
  | .cNop _ => .nothing
  | .cAddi _ _ => .nothing
  | .cJal _ => .nothing
  | .cLi _ _ => .nothing
  | .cAddi16sp _ => .nothing
  | .cLui _ _ => .nothing
  | .cSrli _ _ => .nothing
  | .cSrai _ _ => .nothing
  | .cAndi _ _ => .nothing
  | .cSub _ _ => .nothing
  | .cXor _ _ => .nothing
  | .cOr _ _ => .nothing
  | .cAnd _ _ => .nothing
  | .cJ _ => .nothing
  | .cBeqz _ _ => .nothing
  | .cBnez _ _ => .nothing
  | .cSlli _ _ => .nothing
  | .cLwsp _ imm => .load (s.reg sp + cStackOffset imm)
  | .cJr _ => .nothing
  | .cMv _ _ => .nothing
  | .cEbreak => .nothing
  | .cJalr _ => .nothing
  | .cAdd _ _ => .nothing
  | .cSwsp rs2 imm => .store (s.reg sp + cStackOffset imm) (s.reg rs2)

/-- The low ones of `tdata2` and its lowest 0: the bits that a NAPOT match ignores (R841). -/
def napotMask (v : Word) : Word := v ^^^ (v + 1)

/-- `compare` (R841). The two largest masks are not defined: a free result (93 U19). -/
def Trigger.compare (t : Trigger) (index fresh : Nat) (value : Word) : Bool :=
  if t.napot then
    if t.tdata2 = 0x7FFFFFFF ∨ t.tdata2 = 0xFFFFFFFF then freeTopMaskMatch index fresh
    else (value ||| napotMask t.tdata2) == (t.tdata2 ||| napotMask t.tdata2)
  else value == t.tdata2

/-- The comparison with an instruction address, which ignores bit 0 of `tdata2` (R841, 12 R218). With `match` = 1 that bit is compared with
nothing, but it counts when the mask is formed (log entry 65). -/
def Trigger.comparePc (t : Trigger) (index fresh : Nat) (pc : Word) : Bool :=
  if t.napot then t.compare index fresh pc else (pc >>> 1) == (t.tdata2 >>> 1)

/-- `raw_match` (R841). -/
def Trigger.rawMatch (t : Trigger) (index fresh : Nat) (pc : Word) (a : Access) : Bool :=
  t.m &&
    ((t.execute && t.comparePc index fresh pc) ||
      match a with
      | .nothing => false
      | .load x => t.load && t.compare index fresh x
      | .store x d => t.store && t.compare index fresh (if t.select then d else x)
      | .both x d => (t.load && t.compare index fresh x) || (t.store && t.compare index fresh (if t.select then d else x)))

/-- The trigger may fire: into Debug Mode only if the debugger owns it (R842 (2), 93 U20), else only while interrupts are
enabled (R842 (1)). -/
def Trigger.mayFire (t : Trigger) (mie : Bool) : Bool := if t.action then t.dmode else mie

/-- What a pair of triggers does on one instruction: whether each fires, and whether the first one's `hit` is set besides
(R843, R844, 93 U22). -/
structure PairResult where
  fires0 : Bool
  fires1 : Bool
  mark0 : Bool
deriving DecidableEq, Repr

/-- R843 for a pair whose first trigger has number `index`. -/
def pairResult (a b : Trigger) (index fresh : Nat) (pc : Word) (acc : Access) (mie : Bool) : PairResult :=
  let ra := a.rawMatch index fresh pc acc
  let rb := b.rawMatch (index + 1) fresh pc acc
  if a.chain then
    let f := ra && rb && b.mayFire mie
    ⟨false, f, f || (ra && !rb && freeChainHit index fresh)⟩
  else ⟨ra && a.mayFire mie, rb && b.mayFire mie, false⟩

/-- The trigger with `hit` set if `on` (R844). -/
def Trigger.mark (t : Trigger) (on : Bool) : Trigger := { t with hit := t.hit || on }

/-- What the triggers ask for. -/
inductive TriggerAction where
  | nothing
  | breakpoint
  | debug
deriving DecidableEq, Repr

/-- Some trigger of the hart is enabled at all. -/
def Triggers.armed (t : Triggers) : Bool := t.tr0.m || t.tr1.m || t.tr2.m || t.tr3.m

/-- The triggers of the executing hart on the instruction at `pc` with access `acc`: the hits they record and the action; Debug
Mode wins (R844). -/
def State.evalTriggers (s : State) (acc : Access) : TriggerAction × State :=
  let h := s.hart
  let t := h.trig
  if t.armed then
    let p := pairResult t.tr0 t.tr1 0 s.env.fresh h.pc acc h.trap.mstatusMie
    let q := pairResult t.tr2 t.tr3 2 s.env.fresh h.pc acc h.trap.mstatusMie
    let marked := s.mapHart fun x => { x with trig := { x.trig with
      tr0 := x.trig.tr0.mark (p.fires0 || p.mark0)
      tr1 := x.trig.tr1.mark p.fires1
      tr2 := x.trig.tr2.mark (q.fires0 || q.mark0)
      tr3 := x.trig.tr3.mark q.fires1 } }
    let debug := (p.fires0 && t.tr0.action) || (p.fires1 && t.tr1.action) || (q.fires0 && t.tr2.action) ||
      (q.fires1 && t.tr3.action)
    let any := p.fires0 || p.fires1 || q.fires0 || q.fires1
    (if debug then .debug else if any then .breakpoint else .nothing, marked)
  else (.nothing, s)

end Sys2Proof.Machine
end

