-- ==== Sys2Proof/Machine/Run.lean ====
section
/-! DEFINITION. One step of a hart: what happens at an instruction boundary and in which order (60_exceptions.md R660,
R692; 62 R812 to R822, R832, R835, R846), and what every step does besides (70 R890). -/

namespace Sys2Proof.Machine

/-! ## Loads and stores in progress -/

/-- What a load or store instruction does to memory. -/
structure MemOp where
  len : Nat
  /-- The destination of a load, the data of a store. -/
  reg : RegIdx
  base : RegIdx
  off : Word
  size : Nat
  isStore : Bool
  ext : Word → Word

/-- The effective address for hart `h`. -/
def MemOp.addr (m : MemOp) (h : Hart) : Word := h.reg m.base + m.off

/-- The loads and stores; an atomic is one indivisible access of the DCCM (20_memory.md R281) and has no part here. -/
def memOp : Instr → Option MemOp
  | .lb rd rs1 imm => some ⟨4, rd, rs1, sext12 imm, 1, false, sext8⟩
  | .lh rd rs1 imm => some ⟨4, rd, rs1, sext12 imm, 2, false, sext16⟩
  | .lw rd rs1 imm => some ⟨4, rd, rs1, sext12 imm, 4, false, id⟩
  | .lbu rd rs1 imm => some ⟨4, rd, rs1, sext12 imm, 1, false, zext8⟩
  | .lhu rd rs1 imm => some ⟨4, rd, rs1, sext12 imm, 2, false, zext16⟩
  | .sb rs2 rs1 imm => some ⟨4, rs2, rs1, sext12 imm, 1, true, id⟩
  | .sh rs2 rs1 imm => some ⟨4, rs2, rs1, sext12 imm, 2, true, id⟩
  | .sw rs2 rs1 imm => some ⟨4, rs2, rs1, sext12 imm, 4, true, id⟩
  | .cLw rd rs1 imm => some ⟨2, cReg rd, cReg rs1, cWordOffset imm, 4, false, id⟩
  | .cSw rs2 rs1 imm => some ⟨2, cReg rs2, cReg rs1, cWordOffset imm, 4, true, id⟩
  | .cLwsp rd imm => some ⟨2, rd, sp, cStackOffset imm, 4, false, id⟩
  | .cSwsp rs2 imm => some ⟨2, rs2, sp, cStackOffset imm, 4, true, id⟩
  | _ => none

/-- The instruction in progress. -/
def InFlight.instr : InFlight → Instr
  | .sent i => i
  | .half i _ => i

/-- A load of the executing hart finds all its bytes in the buffer (20_memory.md R273 case 1). -/
def State.forwarded (s : State) (a : Word) (n : Nat) : Bool :=
  !s.sideEffectAt s.cur a.toNat && decide (coveredBytes s.hart.buffer (fun p => !p.sideEffect) a n = n)

/-! ## Waiting for the bus (62 R812, R822) -/

/-- Hart `h` has stores in its buffer that the SoC does not answer. -/
def State.storesStuck (s : State) (h : HartId) : Bool := (s.env.stall.get h).lsu && !(s.hartAt h).buffer.isEmpty

/-- The instruction that hart `h` has begun accesses the bus. -/
def State.flightOnBus (s : State) (h : HartId) : Bool :=
  match (s.hartAt h).inFlight with
  | none => false
  | some (.sent _) => true
  | some (.half i _) =>
    match memOp i with
    | some m => s.onBus (m.addr (s.hartAt h))
    | none => false

/-- The load that hart `h` has begun gets no answer of the SoC. -/
def State.loadStuck (s : State) (h : HartId) : Bool := (s.env.stall.get h).lsu && s.flightOnBus h

/-- The next fetch of hart `h` is one that the SoC does not answer. -/
def State.fetchStuck (s : State) (h : HartId) : Bool :=
  (s.env.stall.get h).ifu && s.fetchOnBus h && (s.hartAt h).inFlight.isNone

/-- Hart `h` cannot quiesce now. -/
def State.busBusy (s : State) (h : HartId) : Bool := s.storesStuck h || s.loadStuck h || s.fetchStuck h

/-- A debug halt of hart `h` is asked for by the debugger or by the MPC (R836, R833). -/
def State.haltRequested (s : State) (h : HartId) : Bool := s.dm.haltReq.get h || (s.hartAt h).power.mpcHaltPending

/-- The forced-debug-halt timeout of hart `h` starts: it is enabled, an entry into Debug Mode is asked for, and the bus is not done (11
R122, 62 R822). That the end of a single step, which R822 does not list, starts it too is the model's choice, log entry 78. -/
def State.startsTimeout (s : State) (h : HartId) : Bool :=
  let x := s.hartAt h
  s.shared.mfdht.getLsbD 0 && decide (x.activity = .running) &&
    (s.haltRequested h || x.dbg.haltWaits || (x.dbg.stepping && x.dbg.stepDone)) && s.busBusy h

/-- The forced-debug-halt timeout of hart `h` counts: once started it goes on with every tick until the hart is in DbHalt, whatever
becomes of the request and of the bus (11 R122, 62 R822; log entry 59). -/
def State.countsTimeout (s : State) (h : HartId) : Bool :=
  (decide ((s.hartAt h).dbg.timeout ≠ 0) && decide ((s.hartAt h).activity ≠ .dbHalt)) || s.startsTimeout h

/-! ## What every step does besides -/

/-- The stores of hart `h` that the environment does not hold back reach the bus, oldest first (20_memory.md R274, R276). -/
def State.drainFree (s : State) (h : HartId) : State :=
  if (s.env.stall.get h).lsu then s
  else s.drain h ((s.hartAt h).buffer.length - s.env.held.get h)

/-- The clock ticks of this step (70 R890). -/
def State.stepTicks (s : State) : Nat := 1 + s.env.extraTicks

/-- Hart `h` after the ticks of this step. -/
def State.tickHart (s : State) (h : HartId) : Hart :=
  (s.hartAt h).ticks h.number (s.countsTimeout h) s.env.fresh s.stepTicks

/-- The ticks of this step: gateways, timers, counters, timeouts, pauses. -/
def State.passTime (s : State) : State :=
  { s with
    pic := s.pic.clock (s.shared.mcgc.getLsbD 9)
    harts := ⟨s.tickHart .t0, s.tickHart .t1⟩
    env := { s.env with fresh := s.env.fresh + 1 } }

/-- The hart whose step is next: the harts alternate unless the environment schedules otherwise (62 R803). -/
def State.nextHart (s : State) : HartId := if s.schedulable s.cur.other then s.cur.other else .t0

/-- The end of a step: buffers drain, time passes, acknowledges follow, the next hart is chosen. `waits` says whether the hart waits for
the bus on its way into Debug Mode. -/
def State.settleAs (s : State) (waits : Bool) : State :=
  let s1 := s.mapHart fun h => { h with dbg := { h.dbg with haltWaits := waits } }
  let t := (((s1.drainFree .t0).drainFree .t1).passTime).handshakes
  { t with cur := t.nextHart }

/-- The end of a step in which the hart does not wait for Debug Mode. -/
def State.settle (s : State) : State := s.settleAs false

/-! ## Debug Mode entry (62 R812, R822, R832) -/

/-- The executing hart, quiesced, enters Debug Mode (R832). The debugger holds it (R833) if its halt request is set, or if the entry is
its `own`: a breakpoint, a trigger or the end of a single step. -/
def State.haltNow (s : State) (cause : BitVec 3) (own : Bool) : State :=
  (s.drainAll s.cur).mapHart fun h => h.enterDebug s.cfg cause h.pc (s.dm.haltReq.get s.cur || own)

/-- The stores of a terminated buffer, from position `i`: each was performed or not (93 U18). -/
def State.terminate (s : State) (h : HartId) : Nat → List PendingStore → State
  | _, [] => s
  | i, p :: rest =>
    (if freeTerminatedStore i s.env.fresh then s.performStore h p else s).terminate h (i + 1) rest

/-- The load that the executing hart has begun is terminated: it completes, with a free value (93 U18). -/
def State.abandonLoad (s : State) : State :=
  let t := s.mapHart fun h => { h with inFlight := none }
  match s.hart.inFlight with
  | none => t
  | some f =>
    match memOp f.instr with
    | some m => t.writeBack m.len (s.loadEvents (m.addr s.hart) m.size) m.reg (freeLoadData s.env.fresh)
    | none => t

/-- A forced halt (R822): bus transactions are terminated, `mfdhs` says which, and the hart enters Debug Mode. -/
def State.haltForced (s : State) (cause : BitVec 3) (own : Bool) : State :=
  let lsu := s.storesStuck s.cur || s.loadStuck s.cur
  let ifu := s.fetchStuck s.cur
  let t := if lsu then (s.terminate s.cur 0 s.hart.buffer).abandonLoad else s
  (t.mapHart fun h => { h with
    buffer := if lsu then [] else h.buffer
    dbg := { h.dbg with mfdhs := h.dbg.mfdhs ||| (BitVec.ofBool lsu ++ BitVec.ofBool ifu) } }).haltNow cause own

/-- The forced-debug-halt timeout of the executing hart is over (11 R122, 62 R822). -/
def State.timedOut (s : State) : Bool :=
  s.shared.mfdht.getLsbD 0 && decide (2 ^ (s.shared.mfdht.extractLsb' 1 5).toNat ≤ s.hart.dbg.timeout)

/-- A debug halt with `cause`: at once when the hart is quiet, forced at the timeout of `mfdht`, else the hart waits (R812,
R822). -/
def State.tryHalt (s : State) (cause : BitVec 3) (own : Bool) : State :=
  if s.busBusy s.cur then
    if s.timedOut then (s.haltForced cause own).settle else s.settleAs true
  else (s.haltNow cause own).settle

/-- The halt that ends a single step (R835, R833): a halt request gives its cause, and the debugger holds the hart all the same.
It can be forced by the timeout of `mfdht` like the other halts (log entry 78). -/
def State.endStep (s : State) : State :=
  s.tryHalt (if s.haltRequested s.cur then debugCauseHaltReq else debugCauseStep) true

/-- The end of a step in which an instruction completed or a trap was taken. A single step then is done: its clock ticks pass first, as those
of an executed instruction (R786, R811, R835), and the hart enters Debug Mode again before anything else it does (`endStep`), a pause that
the instruction has begun included (log entry 29). An NMI that is taken at the boundary of the step ends it like a trap: the model's choice,
log entry 77. -/
def State.complete (s : State) : State :=
  if s.hart.dbg.stepping && decide (s.hart.activity = .running) then
    (s.mapHart fun h => { h with dbg := { h.dbg with stepDone := true } }).settle
  else s.settle

/-! ## Instructions -/

/-- The next state, with `f` done to it. -/
def mapNext (o : Host.Outcome State Fault Refusal) (f : State → State) : Host.Outcome State Fault Refusal :=
  match o with
  | .next t => .next (f t)
  | .fault e => .fault e
  | .refused e => .refused e

/-- The executing hart has executed an instruction: the timers of a hart 1 that was just started wait no longer (11 R118). -/
def State.begun (s : State) : State := s.mapHart fun h => { h with starting := false }

/-- The instruction waits for the buffer to drain: the fences and, in a core that has them, the atomics (20_memory.md R279 to R281). In a
core built without atomics an atomic is an illegal instruction (42_a.md R460(b), 60_exceptions.md R654), which waits for no store
(R655). -/
def Instr.drains (c : Config) : Instr → Bool
  | .fence _ _ _ _ _ | .fenceI _ _ _ => true
  | .lrW _ _ _ _ | .scW _ _ _ _ _ | .amoswapW _ _ _ _ _ | .amoaddW _ _ _ _ _ | .amoxorW _ _ _ _ _
  | .amoandW _ _ _ _ _ | .amoorW _ _ _ _ _ | .amominW _ _ _ _ _ | .amomaxW _ _ _ _ _ | .amominuW _ _ _ _ _
  | .amomaxuW _ _ _ _ _ => atomicsBuilt c
  | _ => false

/-- The instruction is a firmware halt (62 R815): it writes 1 to `mpmc.halt`, and it is not single-stepped. `halt` reads 0, so `csrrs`
writes the bits of its source there, and `csrrc` never writes 1. -/
def State.haltsByFirmware (s : State) (i : Instr) : Bool :=
  !s.hart.dbg.stepping &&
    match i with
    | .csrrw _ csr rs1 | .csrrs _ csr rs1 => decide (csr = 0x7C6) && (s.reg rs1).getLsbD 0
    | .csrrwi _ csr uimm | .csrrsi _ csr uimm => decide (csr = 0x7C6) && uimm.getLsbD 0
    | _ => false

/-- The instruction waits for the buffer to drain, or for the hart to quiesce (62 R815), which the SoC withholds (93 U1). -/
def State.waitsForBus (s : State) (i : Instr) : Bool :=
  (Instr.drains s.cfg i || s.haltsByFirmware i) && s.storesStuck s.cur

/-- The instruction is a load that passes its checks and goes out to the bus, which gives no answer now (93 U1): it stays in the
buffer (10_state.md R61). -/
def State.sendsLoad (s : State) (i : Instr) : Bool :=
  (s.env.stall.get s.cur).lsu &&
    match memOp i with
    | some m =>
      let a := m.addr s.hart
      !m.isStore && s.onBus a && !s.forwarded a m.size && (s.accessFault false (s.reg m.base) a m.size).isNone
    | none => false

/-- The instruction enters Debug Mode: `ebreak` and `c.ebreak` with `dcsr.ebreakm` = 1. -/
def State.breaksIntoDebug (s : State) (i : Instr) : Bool :=
  s.hart.dbg.ebreakm && (decide (i = .ebreak) || decide (i = .cEbreak))

/-- A breakpoint into Debug Mode whose entry waits for the bus (R812); one whose entry is forced (R822) is counted like one that need
not wait. -/
def State.waitingBreakpoint (s : State) : State :=
  (if s.timedOut then s.mapHart Hart.countBreakpoint else s).tryHalt debugCauseEbreak true

/-- What the triggers ask for comes first, else `go` (R844, 60_exceptions.md R651). -/
def State.withTriggers (s : State) (acc : Access) (go : State → Host.Outcome State Fault Refusal) :
    Host.Outcome State Fault Refusal :=
  match s.evalTriggers acc with
  | (.nothing, t) => go t
  | (.breakpoint, t) => .next (t.exception .trigger t.pc).complete
  | (.debug, t) => .next (t.tryHalt debugCauseTrigger true)

/-! ## Split accesses (20_memory.md R305) -/

/-- The bytes of the first part of a misaligned access: up to the multiple of its size that lies inside it (log entry 57). -/
def MemOp.cut (m : MemOp) (h : Hart) : Nat := m.size - (m.addr h).toNat % m.size

/-- The first part of the access `m`, if it is split now: how many bytes it has. An aligned access is made as a whole; a split store to the
bus waits in the buffer in pieces (`storePieces`). -/
def State.firstPart (s : State) (m : MemOp) : Option Nat :=
  let a := m.addr s.hart
  if s.env.splits && decide (m.cut s.hart < m.size) && !inPic s.cfg a.toNat && !(s.onBus a && (m.isStore || s.forwarded a m.size)) &&
      (s.accessFault m.isStore (s.reg m.base) a m.size).isNone then some (m.cut s.hart)
  else none

/-- A read of `k` bytes from `a` for a load at `t`: a double-word of the bus, or a word of the DCCM; no value after an error response. -/
def State.readPart (s : State) (t a : Word) (k : Nat) : Option Word × State :=
  if s.onBus a && !s.busAnswers .read (a.toNat / 8 * 8) 8 then (none, s.busError s.cur .load t)
  else (some (BitVec.ofNat 32 (memReadN s.mem a k)), s)

/-- The first `k` bytes of the access `m` of the instruction `i` are done. That the part at the lower addresses is made first is the model's
choice, log entry 76. -/
def State.beginSplit (s : State) (i : Instr) (m : MemOp) (k : Nat) : State :=
  let a := m.addr s.hart
  let begun (low : Option Word) (t : State) : State := t.mapHart fun h => { h with inFlight := some (.half i low) }
  if m.isStore then begun none (s.dccmStore a (s.reg m.reg) k)
  else
    let s1 := if s.onBus a && coveredBytes s.hart.buffer (fun _ => true) a m.size != 0 then s.drainAll s.cur else s
    begun (s1.readPart a a k).1 (s1.readPart a a k).2

/-- The other bytes of the access `m` are done, and the instruction with it. -/
def State.finishSplit (s : State) (m : MemOp) (low : Option Word) : State :=
  let t := s.mapHart fun h => { h with inFlight := none }
  let a := m.addr s.hart
  let k := m.cut s.hart
  let b := a + BitVec.ofNat 32 k
  if m.isStore then
    (t.dccmStore b (s.reg m.reg >>> (8 * k)) (m.size - k)).retire m.len (s.storeEvents a m.size)
  else
    let high := t.readPart a b (m.size - k)
    let v := match low, high.1 with
      | some l, some h => some (l ||| h <<< (8 * k))
      | none, _ | _, none => none
    high.2.writeBack m.len (s.loadEvents a m.size) m.reg (s.loadValue m.ext v)

/-! ## An instruction -/

/-- The instruction is a load or store that is split now. -/
def State.splitsNow (s : State) (i : Instr) : Option (MemOp × Nat) :=
  match memOp i with
  | some m => (s.firstPart m).map fun k => (m, k)
  | none => none

/-- A decoded instruction runs. -/
def State.runInstr (s : State) (i : Instr) : Host.Outcome State Fault Refusal :=
  if s.waitsForBus i then .next s.settle
  else if s.sendsLoad i then .next (s.begun.mapHart fun h => { h with inFlight := some (.sent i) }).settle
  else if s.breaksIntoDebug i && s.busBusy s.cur then .next s.waitingBreakpoint
  else
    match s.splitsNow i with
    | some (m, k) => .next (s.beginSplit i m k).begun.settle
    | none => mapNext (exec i s) fun t => t.begun.complete

/-- What the fetched bytes offer to the triggers; a fetch that faults offers its address only (92 D2). -/
def Fetched.access (s : State) : Fetched → Access
  | .fault _ _ => .nothing
  | .bytes l =>
    match decode l with
    | .ok (i, _) => accessOf s i
    | .error _ => .nothing

/-- The instruction that the fetched bytes start with. -/
def Fetched.instr : Fetched → Option Instr
  | .fault _ _ => none
  | .bytes l =>
    match decode l with
    | .ok (i, _) => some i
    | .error _ => none

/-- What follows the triggers of a fetch: its exception, the illegal-instruction exception, or the instruction (R651, R654). -/
def Fetched.run (u : State) : Fetched → Host.Outcome State Fault Refusal
  | .fault c a => .next (u.exception ⟨1, c⟩ a).complete
  | .bytes l =>
    match decode l with
    | .ok (i, _) => u.runInstr i
    | .error r => .next (u.exception .illegal (Reject.bits r)).complete

/-- Fetch, decode, triggers, and the instruction or its exception (R651). An execute trigger comes before the fault of its own fetch
(92 D2). -/
def State.instruction (s : State) : Host.Outcome State Fault Refusal :=
  if s.fetchStuck s.cur then .next s.settle
  else s.fetch.2.withTriggers (s.fetch.1.access s.fetch.2) fun u => s.fetch.1.run u

/-- A trigger with Debug Mode action fires on the next instruction; the state with its `hit` recorded (R846). -/
def State.debugTrigger (s : State) : Option State :=
  if s.fetchStuck s.cur || s.hart.pausing || !s.hart.trig.armed then none
  else
    match s.fetch.2.evalTriggers (s.fetch.1.access s.fetch.2) with
    | (.debug, u) => some u
    | (.breakpoint, _) | (.nothing, _) => none

/-- The next instruction is a breakpoint into Debug Mode that no trigger stops. -/
def State.debugBreakpoint (s : State) : Bool :=
  !s.fetchStuck s.cur && !s.hart.pausing &&
    decide ((s.fetch.2.evalTriggers (s.fetch.1.access s.fetch.2)).1 = .nothing) &&
    match s.fetch.1.instr with
    | some i => s.breaksIntoDebug i
    | none => false

/-- The next instruction enters Debug Mode, and no NMI or interrupt comes before it: this goes before a PMU halt (R813, R846; log
entry 63). -/
def State.haltsForDebug (s : State) : Bool :=
  !s.hart.nmi.pending && (s.interruptToTake s.cur).isNone && (s.debugTrigger.isSome || s.debugBreakpoint)

/-! ## The step of a hart -/

/-- The step of a running hart at an instruction boundary, in the order of 62 R813, R846 and 60_exceptions.md R660, R661: debug halt, PMU
halt, NMI, interrupt, pause, instruction. An NMI for a bus error is taken at the first boundary, like an interrupt (log entry
5). An NMI or interrupt that arrives while the next instruction, a breakpoint or a trigger, waits to enter Debug Mode is taken first (log
entry 68). A halt request that comes after a resume with `dcsr.step`, and before the stepped instruction, halts the hart without that
instruction, and the step is not made up for later: 62 R835 is silent, the model's choice, log entry 72. -/
def State.atBoundary (s : State) : Host.Outcome State Fault Refusal :=
  if s.hart.dbg.stepping && s.hart.dbg.stepDone then .next s.endStep
  else if s.haltRequested s.cur then
    match s.debugTrigger with
    | some t => .next (t.tryHalt debugCauseTrigger true)
    | none => .next (s.tryHalt debugCauseHaltReq false)
  else if s.hart.power.pmuHaltPending && !s.hart.dbg.stepping && !s.haltsForDebug then
    if s.busBusy s.cur then .next s.settle
    else .next ((s.enterSleep s.cur).mapHart fun h =>
      { h with power := { h.power with pmuHaltPending := false } }).settle
  else
    let s1 := if s.hart.pausing && s.endsPause s.cur then
      s.mapHart fun h => { h with power := { h.power with pauseCount := 0 } } else s
    if s1.hart.nmi.pending then .next (s1.takePendingNmi s1.cur).complete
    else
      match s1.interruptToTake s1.cur with
      | some c => .next (s1.takeInterrupt s1.cur c).complete
      | none => if s1.hart.pausing then .next s1.settle else s1.instruction

/-- The instruction that the hart has begun goes on; it waits while the SoC withholds its answer (93 U1), and a debug halt waits with
it (62 R822). -/
def State.resumeAccess (s : State) (f : InFlight) : Host.Outcome State Fault Refusal :=
  if s.loadStuck s.cur then
    .next (if s.haltRequested s.cur then s.tryHalt debugCauseHaltReq false else s.settle)
  else
    match f with
    | .sent i => (s.mapHart fun h => { h with inFlight := none }).runInstr i
    | .half i low =>
      match memOp i with
      | some m => .next (s.finishSplit m low).complete
      | none => .next (s.mapHart fun h => { h with inFlight := none }).settle

/-- The step of a running hart: it goes on with the access it has begun, or is at an instruction boundary. -/
def State.running (s : State) : Host.Outcome State Fault Refusal :=
  match s.hart.inFlight with
  | some f => s.resumeAccess f
  | none => s.atBoundary

/-- The step of a sleeping hart: a debug halt, a wake-up (R813, R817), or time. -/
def State.sleeping (s : State) : State :=
  if s.haltRequested s.cur then (s.haltNow debugCauseHaltReq false).settle
  else if s.wakes s.cur then
    (s.mapHart fun h => { h with activity := .running, reservation := none }).settle
  else s.settle

/-- The step of a hart in DbHalt: an MPC halt request that waited is honoured (R833), and time passes. -/
def State.halting (s : State) : State :=
  (s.mapHart fun h =>
    if h.power.mpcHaltPending then
      { h with power := { h.power with mpcHaltPending := false }, dbg := { h.dbg with mpcHaltState := true } }
    else h).settle

/-- The step of the hart whose turn it is. -/
def State.hartStep (s : State) : Host.Outcome State Fault Refusal :=
  match s.hart.activity with
  | .idle => .next s.settle
  | .running => s.running
  | .dbHalt => .next s.halting
  | .sleep => .next s.sleeping

/-- A step without a move of the environment; nothing happens while the core is held in reset (70 R860). -/
def State.harts? (s : State) : Host.Outcome State Fault Refusal :=
  if s.cur = .t1 ∧ !s.cfg.dualThread then .fault .noSuchHart
  else if s.heldInReset then .next s
  else s.hartStep

/-- One step: the next move of the environment, or a step of a hart. -/
def State.stepOnce (s : State) : Host.Outcome State Fault Refusal :=
  if configOk s.cfg then
    match s.env.inputs with
    | [] => s.harts?
    | .proceed :: rest => { s with env := { s.env with inputs := rest } }.harts?
    | e :: rest =>
      match { s with env := { s.env with inputs := rest, fresh := s.env.fresh + 1 } }.applyEvent e with
      | .ok t => .next t
      | .error r => .refused r
  else .refused .badConfiguration

end Sys2Proof.Machine
end

