-- ==== Sys2Proof/Machine/Step.lean ====
section
/-! DEFINITION. One step of the machine, and the placing of an instruction where the next step fetches it. -/

namespace Sys2Proof.Machine

/-- One step of the machine (`State.stepOnce`). -/
def step (s : State) : Host.Outcome State Fault Refusal := s.stepOnce

/-- `s` with the instruction of `nbits` bits `w` at the program counter of the hart whose step is next, and no move of the
environment before it. Log entry 4. -/
def State.withFetchWord (s : State) (nbits w : Nat) : State :=
  { s with
    mem := placeInstr s.mem s.pc nbits w
    env := { s.env with inputs := [] } }

end Sys2Proof.Machine
end

