-- ==== Sys2Proof/WellFormed.lean ====
section
/-! DEFINITION. The instructions that have an encoding of their own: the constraints of 30_encoding.md R372 and the three
aliases of R366. A well-formed instruction is what the decoder reads back from its words. -/

namespace Sys2Proof

/-- The constraints of R372 (`rd` ≠ 0, `nzimm` ≠ 0 and so on) and of R366: the points of `pack`, `grevi` and `gorci` whose
words are named `zext.h`, `rev8` and `orc.b`. Every other field may hold any value its bits admit. -/
def Instr.wellFormed : Instr → Bool
  | .lui _ _ => true
  | .auipc _ _ => true
  | .jal _ _ => true
  | .jalr _ _ _ => true
  | .beq _ _ _ => true
  | .bne _ _ _ => true
  | .blt _ _ _ => true
  | .bge _ _ _ => true
  | .bltu _ _ _ => true
  | .bgeu _ _ _ => true
  | .lb _ _ _ => true
  | .lh _ _ _ => true
  | .lw _ _ _ => true
  | .lbu _ _ _ => true
  | .lhu _ _ _ => true
  | .sb _ _ _ => true
  | .sh _ _ _ => true
  | .sw _ _ _ => true
  | .addi _ _ _ => true
  | .slti _ _ _ => true
  | .sltiu _ _ _ => true
  | .xori _ _ _ => true
  | .ori _ _ _ => true
  | .andi _ _ _ => true
  | .slli _ _ _ => true
  | .srli _ _ _ => true
  | .srai _ _ _ => true
  | .add _ _ _ => true
  | .sub _ _ _ => true
  | .sll _ _ _ => true
  | .slt _ _ _ => true
  | .sltu _ _ _ => true
  | .xor _ _ _ => true
  | .srl _ _ _ => true
  | .sra _ _ _ => true
  | .or _ _ _ => true
  | .and _ _ _ => true
  | .fence _ _ _ _ _ => true
  | .ecall => true
  | .ebreak => true
  | .mul _ _ _ => true
  | .mulh _ _ _ => true
  | .mulhsu _ _ _ => true
  | .mulhu _ _ _ => true
  | .div _ _ _ => true
  | .divu _ _ _ => true
  | .rem _ _ _ => true
  | .remu _ _ _ => true
  | .lrW _ _ _ _ => true
  | .scW _ _ _ _ _ => true
  | .amoswapW _ _ _ _ _ => true
  | .amoaddW _ _ _ _ _ => true
  | .amoxorW _ _ _ _ _ => true
  | .amoandW _ _ _ _ _ => true
  | .amoorW _ _ _ _ _ => true
  | .amominW _ _ _ _ _ => true
  | .amomaxW _ _ _ _ _ => true
  | .amominuW _ _ _ _ _ => true
  | .amomaxuW _ _ _ _ _ => true
  | .csrrw _ _ _ => true
  | .csrrs _ _ _ => true
  | .csrrc _ _ _ => true
  | .csrrwi _ _ _ => true
  | .csrrsi _ _ _ => true
  | .csrrci _ _ _ => true
  | .fenceI _ _ _ => true
  | .mret => true
  | .wfi => true
  | .sh1add _ _ _ => true
  | .sh2add _ _ _ => true
  | .sh3add _ _ _ => true
  | .clz _ _ => true
  | .ctz _ _ => true
  | .cpop _ _ => true
  | .min _ _ _ => true
  | .minu _ _ _ => true
  | .max _ _ _ => true
  | .maxu _ _ _ => true
  | .sextB _ _ => true
  | .sextH _ _ => true
  | .zextH _ _ => true
  | .andn _ _ _ => true
  | .orn _ _ _ => true
  | .xnor _ _ _ => true
  | .rol _ _ _ => true
  | .ror _ _ _ => true
  | .rori _ _ _ => true
  | .rev8 _ _ => true
  | .orcB _ _ => true
  | .clmul _ _ _ => true
  | .clmulh _ _ _ => true
  | .clmulr _ _ _ => true
  | .bset _ _ _ => true
  | .bseti _ _ _ => true
  | .bclr _ _ _ => true
  | .bclri _ _ _ => true
  | .binv _ _ _ => true
  | .binvi _ _ _ => true
  | .bext _ _ _ => true
  | .bexti _ _ _ => true
  | .bcompress _ _ _ => true
  | .bdecompress _ _ _ => true
  | .pack _ _ rs2 => decide (rs2 ≠ 0)
  | .packh _ _ _ => true
  | .bfp _ _ _ => true
  | .packu _ _ _ => true
  | .grev _ _ _ => true
  | .grevi _ _ shamt => decide (shamt ≠ 24)
  | .gorc _ _ _ => true
  | .gorci _ _ shamt => decide (shamt ≠ 7)
  | .shfl _ _ _ => true
  | .shfli _ _ _ => true
  | .unshfl _ _ _ => true
  | .unshfli _ _ _ => true
  | .xpermN _ _ _ => true
  | .xpermB _ _ _ => true
  | .xpermH _ _ _ => true
  | .crc32B _ _ => true
  | .crc32H _ _ => true
  | .crc32W _ _ => true
  | .crc32cB _ _ => true
  | .crc32cH _ _ => true
  | .crc32cW _ _ => true
  | .cAddi4spn _ imm => decide (imm ≠ 0)
  | .cLw _ _ _ => true
  | .cSw _ _ _ => true
  | .cNop _ => true
  | .cAddi rd _ => decide (rd ≠ 0)
  | .cJal _ => true
  | .cLi _ _ => true
  | .cAddi16sp imm => decide (imm ≠ 0)
  | .cLui rd imm => decide (rd ≠ 2) && decide (imm ≠ 0)
  | .cSrli _ _ => true
  | .cSrai _ _ => true
  | .cAndi _ _ => true
  | .cSub _ _ => true
  | .cXor _ _ => true
  | .cOr _ _ => true
  | .cAnd _ _ => true
  | .cJ _ => true
  | .cBeqz _ _ => true
  | .cBnez _ _ => true
  | .cSlli _ _ => true
  | .cLwsp rd _ => decide (rd ≠ 0)
  | .cJr rs1 => decide (rs1 ≠ 0)
  | .cMv _ rs2 => decide (rs2 ≠ 0)
  | .cEbreak => true
  | .cJalr rs1 => decide (rs1 ≠ 0)
  | .cAdd _ rs2 => decide (rs2 ≠ 0)
  | .cSwsp _ _ => true

/-- An instruction of the set: its fields are ones its encoding can hold. -/
abbrev Instr.WF (i : Instr) : Prop := i.wellFormed = true

end Sys2Proof
end

