-- ==== Sys2Proof/Safety.lean ====
section
/-! DEFINITION. The words the claims are stated in: the invariant of the machine's state, what an instruction leaves
unchanged, and when a hart is about to execute the instruction at its `pc`. -/

namespace Sys2Proof.Machine

/-! ## The invariant -/

/-- What holds of a hart in every run: `pc`, `mepc` and `dpc` are even (10_state.md R24, R40; 12 R221), the bits of `mtvec`,
`mie` and `mcountinhibit` that are hardwired 0 are 0 (R37, R38, R45), timer 0 has no `cascade` (11 R117), and only triggers 0
and 2 have `chain` (12 R216). -/
structure Hart.Ok (h : Hart) : Prop where
  pc : h.pc.getLsbD 0 = false
  mepc : h.trap.mepc.getLsbD 0 = false
  dpc : h.dbg.dpc.getLsbD 0 = false
  mtvec : h.trap.mtvec.getLsbD 1 = false
  mie : h.trap.mie &&& 0x8FFFF777 = 0
  inhibit : h.ctr.inhibit.getLsbD 1 = false
  cascade : h.tim0.cascade = false
  chain1 : h.trig.tr1.chain = false
  chain3 : h.trig.tr3.chain = false

/-- No region of `mrac` is both cacheable and with side effects (11 R100). -/
def mracLegal (v : Word) : Prop := v &&& (v >>> 1) &&& 0x55555555 = 0

/-- What holds of the registers that the harts share: `mrac` is legal (11 R100), the thresholds are at most 26 (R107), the
reserved bits of `mfdc` are 0 (R125), and some hart handles the NMI pin (R113). -/
structure SharedRegs.Ok (c : SharedRegs) : Prop where
  mrac : mracLegal c.mrac
  micect : (c.micect.extractLsb' 27 5).toNat ≤ 26
  miccmect : (c.miccmect.extractLsb' 27 5).toNat ≤ 26
  mdccmect : (c.mdccmect.extractLsb' 27 5).toNat ≤ 26
  mfdc : c.mfdc &&& 0xFFF8E2B2 = 0
  mnmipdel : c.mnmipdel ≠ 0

/-- The invariant: memory in canonical form, both harts and the shared registers as they must be, and hart 1 idle until
`mhartstart.start1` is set (70 R862). -/
structure State.Inv (s : State) : Prop where
  mem : memWf s.mem = true
  hart0 : s.harts.t0.Ok
  hart1 : s.harts.t1.Ok
  shared : s.shared.Ok
  started : s.shared.start1 = false → s.harts.t1.activity = .idle

/-! ## What an instruction leaves unchanged -/

/-- Every byte of memory reads as before. -/
def SameMemory (s t : State) : Prop := ∀ a : Nat, memRead t.mem a = memRead s.mem a

/-- Every byte of memory outside the `n` bytes from `a` reads as before. -/
def SameMemoryOutside (s t : State) (a : Word) (n : Nat) : Prop :=
  ∀ x : Nat, (∀ i, i < n → x ≠ addrAt a i) → memRead t.mem x = memRead s.mem x

/-- Nothing changed but general registers, `pc` and counters of the executing hart. -/
def OnlyRegisters (s t : State) : Prop :=
  t = s.mapHart fun h => { h with regs := t.hart.regs, pc := t.hart.pc, ctr := t.hart.ctr }

/-- One completed instruction was counted: `minstret` by one where it counts (10_state.md R44); the cycle counter, the selectors
and the inhibit bits are as before. -/
structure CountedOnce (h h' : Hart) : Prop where
  minstret : h'.ctr.minstret =
    if h.countersOn ∧ h.ctr.inhibit.getLsbD 2 = false then h.ctr.minstret + 1 else h.ctr.minstret
  mcycle : h'.ctr.mcycle = h.ctr.mcycle
  inhibit : h'.ctr.inhibit = h.ctr.inhibit
  written : h'.ctr.written = h.ctr.written
  selectors : ∀ n, h'.ctr.sel n = h.ctr.sel n

/-- Register `rd` reads `v` afterwards, `x0` reads 0, every other register reads as before. -/
def Writes (s t : State) (rd : RegIdx) (v : Word) : Prop :=
  ∀ r : RegIdx, t.reg r = if r = 0 then 0 else if r = rd then v else s.reg r

/-- No register changed. -/
def SameRegisters (s t : State) : Prop := ∀ r : RegIdx, t.reg r = s.reg r

/-- `t` is `s` after an instruction of `len` bytes that only computes `v` into `rd`. -/
structure Computes (s t : State) (len : Nat) (rd : RegIdx) (v : Word) : Prop where
  result : Writes s t rd v
  pc : t.pc = s.pc + BitVec.ofNat 32 len
  counted : CountedOnce s.hart t.hart
  memory : SameMemory s t
  rest : OnlyRegisters s t

/-- `t` is `s` after an instruction that only goes to `target`. -/
structure GoesTo (s t : State) (target : Word) : Prop where
  registers : SameRegisters s t
  pc : t.pc = target
  counted : CountedOnce s.hart t.hart
  memory : SameMemory s t
  rest : OnlyRegisters s t

/-- `t` is `s` after an instruction that goes to `target` and leaves the address `link` in `rd`. -/
structure LinksTo (s t : State) (target : Word) (rd : RegIdx) (link : Word) : Prop where
  result : Writes s t rd link
  pc : t.pc = target
  counted : CountedOnce s.hart t.hart
  memory : SameMemory s t
  rest : OnlyRegisters s t

/-- `t` is `s` after an exception `c` with `mtval` = `tval` (60_exceptions.md R670, R671): what is saved, where the pc goes, and that
nothing else but the event counters changes. -/
structure Traps (s t : State) (c : Cause) (tval : Word) : Prop where
  mepc : t.hart.trap.mepc = s.pc &&& 0xFFFFFFFE
  mcause : t.hart.trap.mcause = c.mcause
  mscause : t.hart.trap.mscause = c.mscause
  mtval : t.hart.trap.mtval = tval
  mpie : t.hart.trap.mstatusMpie = s.hart.trap.mstatusMie
  mie : t.hart.trap.mstatusMie = false
  pc : t.pc = s.hart.trap.mtvec &&& 0xFFFFFFFC
  reservation : t.hart.reservation = none
  registers : SameRegisters s t
  memory : SameMemory s t
  minstret : t.hart.ctr.minstret = s.hart.ctr.minstret
  others : t.hart.trap.mie = s.hart.trap.mie ∧ t.hart.trap.mtvec = s.hart.trap.mtvec ∧
    t.hart.trap.mscratch = s.hart.trap.mscratch
  mcycle : t.hart.ctr.mcycle = s.hart.ctr.mcycle
  rest : t = s.mapHart fun h =>
    { h with pc := t.hart.pc, trap := t.hart.trap, ctr := t.hart.ctr, reservation := none }

/-- The registers are unchanged, `pc` goes on by `len`, and the instruction is counted. -/
structure Retires (s t : State) (len : Nat) : Prop where
  registers : SameRegisters s t
  pc : t.pc = s.pc + BitVec.ofNat 32 len
  counted : CountedOnce s.hart t.hart

/-- `t` is `s` after a store instruction of `len` bytes put the low `n` bytes of `v` into the DCCM at `a`: those bytes, the
other hart's reservation if it is on one of them (42_a.md R462 (2)), and nothing else. -/
structure StoresDccm (s t : State) (len : Nat) (a : Word) (n : Nat) (v : Word) : Prop where
  retires : Retires s t len
  bytes : ∀ k, k < n → memRead t.mem (addrAt a k) = BitVec.ofNat 8 (v.toNat / 2 ^ (8 * k))
  outside : SameMemoryOutside s t a n
  seen : (t.hartAt s.cur.other).reservation =
    match (s.hartAt s.cur.other).reservation with
    | some w => if a.toNat < w.toNat + 4 ∧ w.toNat < a.toNat + n then none else some w
    | none => none
  rest : t = { State.mapHartAt (s.mapHart fun h => { h with pc := t.hart.pc, ctr := t.hart.ctr }) s.cur.other
      (fun h => { h with reservation := (t.hartAt s.cur.other).reservation }) with mem := t.mem }

/-- `t` is `s` after a store instruction of `len` bytes put the low `n` bytes of `v`, for the bus address `a`, behind the
stores that wait in the hart's buffer (20_memory.md R272, R274), as one transaction if it is aligned: the hart sees them from now
on, memory has not changed. -/
structure BuffersStore (s t : State) (len : Nat) (a : Word) (n : Nat) (v : Word) : Prop where
  retires : Retires s t len
  bytes : ∀ k, k < n → t.viewByte s.cur (a + BitVec.ofNat 32 k) = BitVec.ofNat 8 (v.toNat / 2 ^ (8 * k))
  outside : ∀ x : Word, (∀ k, k < n → x ≠ a + BitVec.ofNat 32 k) → t.viewByte s.cur x = s.viewByte s.cur x
  buffer : t.hart.buffer = s.hart.buffer ++ storePieces s.cfg.bus a v n (s.sideEffectAt s.cur a.toNat)
  whole : a.toNat % n = 0 → t.hart.buffer = s.hart.buffer ++ [⟨a, n, v, s.sideEffectAt s.cur a.toNat, a⟩]
  memory : t.mem = s.mem
  rest : t = s.mapHart fun h => { h with pc := t.hart.pc, ctr := t.hart.ctr, buffer := t.hart.buffer }

/-- `t` is `s` after a load instruction of `len` bytes from the bus left `v` in `rd`: stores that waited may have reached
memory, which changes no byte as the hart sees it. -/
structure LoadsFromBus (s t : State) (len : Nat) (rd : RegIdx) (v : Word) : Prop where
  result : Writes s t rd v
  pc : t.pc = s.pc + BitVec.ofNat 32 len
  counted : CountedOnce s.hart t.hart
  view : ∀ x : Word, t.viewByte s.cur x = s.viewByte s.cur x
  memory : ∀ x : Word, (∀ p ∈ s.hart.buffer, p.covers x = false) → memRead t.mem x.toNat = memRead s.mem x.toNat
  rest : { t with mem := s.mem } = s.mapHart fun h =>
    { h with regs := t.hart.regs, pc := t.hart.pc, ctr := t.hart.ctr, buffer := t.hart.buffer }

/-! ## Shapes of instruction -/

/-- Every `i rd rs1 rs2` is the R-format word with these function bits (30_encoding.md R362), and leaves in `rd` a value `v` with
`R x[rs1] x[rs2] v`, in every state. -/
def IsRegRel (i : RegIdx → RegIdx → RegIdx → Instr) (f7 : BitVec 7) (f3 : BitVec 3) (R : Word → Word → Word → Prop) :
    Prop :=
  ∀ rd rs1 rs2 : RegIdx, encode (i rd rs1 rs2) = .word (f7 ++ rs2 ++ rs1 ++ f3 ++ rd ++ 0b0110011#7) ∧
    ∀ s : State, ∃ v t, exec (i rd rs1 rs2) s = .next t ∧ Computes s t 4 rd v ∧ R (s.reg rs1) (s.reg rs2) v

/-- The same with the value given by a function. -/
def IsRegOp (i : RegIdx → RegIdx → RegIdx → Instr) (f7 : BitVec 7) (f3 : BitVec 3) (f : Word → Word → Word) : Prop :=
  IsRegRel i f7 f3 fun a b v => v = f a b

/-- Every `i rd rs1 imm` is the I-format word with opcode OP-IMM and this `funct3`, and leaves `f x[rs1] imm` in `rd`. -/
def IsImmOp (i : RegIdx → RegIdx → BitVec 12 → Instr) (f3 : BitVec 3) (f : Word → BitVec 12 → Word) : Prop :=
  ∀ (rd rs1 : RegIdx) (imm : BitVec 12), encode (i rd rs1 imm) = .word (imm ++ rs1 ++ f3 ++ rd ++ 0b0010011#7) ∧
    ∀ s : State, ∃ t, exec (i rd rs1 imm) s = .next t ∧ Computes s t 4 rd (f (s.reg rs1) imm)

/-- Every `i rd rs1 shamt` is the word with opcode OP-IMM, these function bits and a five-bit amount (I-shift), and leaves in
`rd` a value `v` with `R x[rs1] shamt v`. -/
def IsShiftRel (i : RegIdx → RegIdx → BitVec 5 → Instr) (f7 : BitVec 7) (f3 : BitVec 3) (R : Word → Nat → Word → Prop) :
    Prop :=
  ∀ (rd rs1 : RegIdx) (shamt : BitVec 5),
    encode (i rd rs1 shamt) = .word (f7 ++ shamt ++ rs1 ++ f3 ++ rd ++ 0b0010011#7) ∧
    ∀ s : State, ∃ v t, exec (i rd rs1 shamt) s = .next t ∧ Computes s t 4 rd v ∧ R (s.reg rs1) shamt.toNat v

/-- The same with the value given by a function. -/
def IsShiftOp (i : RegIdx → RegIdx → BitVec 5 → Instr) (f7 : BitVec 7) (f3 : BitVec 3) (f : Word → Nat → Word) : Prop :=
  IsShiftRel i f7 f3 fun a n v => v = f a n

/-- The same with a four-bit amount below a 0 bit (I-shift4). -/
def IsShift4Rel (i : RegIdx → RegIdx → BitVec 4 → Instr) (f7 : BitVec 7) (f3 : BitVec 3)
    (R : Word → Nat → Word → Prop) : Prop :=
  ∀ (rd rs1 : RegIdx) (shamt : BitVec 4),
    encode (i rd rs1 shamt) = .word (f7 ++ 0#1 ++ shamt ++ rs1 ++ f3 ++ rd ++ 0b0010011#7) ∧
    ∀ s : State, ∃ v t, exec (i rd rs1 shamt) s = .next t ∧ Computes s t 4 rd v ∧ R (s.reg rs1) shamt.toNat v

/-- Every `i rd rs1` is the word with opcode OP-IMM and these bits 31 to 20 (I-unary), and leaves in `rd` a value `v` with
`R x[rs1] v`. -/
def IsUnaryRel (i : RegIdx → RegIdx → Instr) (top : BitVec 12) (f3 : BitVec 3) (R : Word → Word → Prop) : Prop :=
  ∀ rd rs1 : RegIdx, encode (i rd rs1) = .word (top ++ rs1 ++ f3 ++ rd ++ 0b0010011#7) ∧
    ∀ s : State, ∃ v t, exec (i rd rs1) s = .next t ∧ Computes s t 4 rd v ∧ R (s.reg rs1) v

/-- The same with the value given by a function. -/
def IsUnaryOp (i : RegIdx → RegIdx → Instr) (top : BitVec 12) (f3 : BitVec 3) (f : Word → Word) : Prop :=
  IsUnaryRel i top f3 fun a v => v = f a

/-- Every `i rs1 rs2 imm` is the B-format word with this `funct3` (`imm` is bits 12 to 1 of the offset), and goes to
`pc` + offset if `taken x[rs1] x[rs2]`, else to the next instruction. -/
def IsBranch (i : RegIdx → RegIdx → BitVec 12 → Instr) (f3 : BitVec 3) (taken : Word → Word → Bool) : Prop :=
  ∀ (rs1 rs2 : RegIdx) (imm : BitVec 12),
    encode (i rs1 rs2 imm) = .word (imm.extractLsb' 11 1 ++ imm.extractLsb' 4 6 ++ rs2 ++ rs1 ++ f3 ++
      imm.extractLsb' 0 4 ++ imm.extractLsb' 10 1 ++ 0b1100011#7) ∧
    ∀ s : State, ∃ t, exec (i rs1 rs2 imm) s = .next t ∧
      GoesTo s t (if taken (s.reg rs1) (s.reg rs2) then s.pc + BitVec.ofInt 32 (2 * imm.toInt) else s.pc + 4)

/-- The register that a three-bit field names: `x8` to `x15` (30_encoding.md R370). -/
def creg (r : CReg) : RegIdx := BitVec.ofNat 5 (8 + r.toNat)

/-- Every instruction `i` of `len` bytes leaves `f s` in `rd`. -/
def ComputesAlways (i : Instr) (len : Nat) (rd : RegIdx) (f : State → Word) : Prop :=
  ∀ s : State, ∃ t, exec i s = .next t ∧ Computes s t len rd (f s)

/-- `csrrw` puts a value `v` with `ok s v` into the CSR at `a`, and a `csrrs` that comes next reads `f s v`. -/
def ReadsBackIf (a : BitVec 12) (ok : State → Word → Prop) (f : State → Word → Word) : Prop :=
  ∀ (s : State) (rs1 rd : RegIdx), ok s (s.reg rs1) →
    ∃ t u, exec (.csrrw 0 a rs1) s = .next t ∧ exec (.csrrs rd a 0) t = .next u ∧ Writes t u rd (f s (s.reg rs1))

/-- The same for every value, where what is read depends on the value only. -/
def ReadsBack (a : BitVec 12) (f : Word → Word) : Prop := ReadsBackIf a (fun _ _ => True) fun _ v => f v

/-! ## Loads and stores -/

/-- The loads: the length of the instruction, the destination, the base register, the offset, the size in bytes, and whether the
value is sign-extended. -/
inductive IsLoad : Instr → Nat → RegIdx → RegIdx → Word → Nat → Bool → Prop where
  | lb (rd rs1 : RegIdx) (imm : BitVec 12) : IsLoad (.lb rd rs1 imm) 4 rd rs1 (imm.signExtend 32) 1 true
  | lh (rd rs1 : RegIdx) (imm : BitVec 12) : IsLoad (.lh rd rs1 imm) 4 rd rs1 (imm.signExtend 32) 2 true
  | lw (rd rs1 : RegIdx) (imm : BitVec 12) : IsLoad (.lw rd rs1 imm) 4 rd rs1 (imm.signExtend 32) 4 true
  | lbu (rd rs1 : RegIdx) (imm : BitVec 12) : IsLoad (.lbu rd rs1 imm) 4 rd rs1 (imm.signExtend 32) 1 false
  | lhu (rd rs1 : RegIdx) (imm : BitVec 12) : IsLoad (.lhu rd rs1 imm) 4 rd rs1 (imm.signExtend 32) 2 false
  | cLw (rd rs1 : CReg) (imm : BitVec 5) :
    IsLoad (.cLw rd rs1 imm) 2 (creg rd) (creg rs1) (BitVec.ofNat 32 (4 * imm.toNat)) 4 true
  | cLwsp (rd : RegIdx) (imm : BitVec 6) : IsLoad (.cLwsp rd imm) 2 rd 2 (BitVec.ofNat 32 (4 * imm.toNat)) 4 true

/-- The stores: the length of the instruction, the data register, the base register, the offset and the size in bytes. -/
inductive IsStore : Instr → Nat → RegIdx → RegIdx → Word → Nat → Prop where
  | sb (rs2 rs1 : RegIdx) (imm : BitVec 12) : IsStore (.sb rs2 rs1 imm) 4 rs2 rs1 (imm.signExtend 32) 1
  | sh (rs2 rs1 : RegIdx) (imm : BitVec 12) : IsStore (.sh rs2 rs1 imm) 4 rs2 rs1 (imm.signExtend 32) 2
  | sw (rs2 rs1 : RegIdx) (imm : BitVec 12) : IsStore (.sw rs2 rs1 imm) 4 rs2 rs1 (imm.signExtend 32) 4
  | cSw (rs2 rs1 : CReg) (imm : BitVec 5) :
    IsStore (.cSw rs2 rs1 imm) 2 (creg rs2) (creg rs1) (BitVec.ofNat 32 (4 * imm.toNat)) 4
  | cSwsp (rs2 : RegIdx) (imm : BitVec 6) : IsStore (.cSwsp rs2 imm) 2 rs2 2 (BitVec.ofNat 32 (4 * imm.toNat)) 4

/-- The bytes `f 0`, `f 1`, … as a little-endian number (20_memory.md R261). -/
def littleEndian (f : Nat → Byte) : Nat → Nat
  | 0 => 0
  | n + 1 => littleEndian f n + (f n).toNat * 256 ^ n

/-- A number of `n` bytes as a word, sign-extended if `signed` (40_rv32i.md R411 to R415). -/
def widen (signed : Bool) (n v : Nat) : Word :=
  if signed ∧ 256 ^ n ≤ 2 * v then BitVec.ofInt 32 ((v : Int) - 256 ^ n) else BitVec.ofNat 32 v

/-- `n` bytes at `a`, reached from the base address `b`, lie in the DCCM, and the access passes every check of 20_memory.md
R300: the base is one of the core's own addresses, and no word it touches has a double-bit error. -/
structure DccmAccess (s : State) (b a : Word) (n : Nat) : Prop where
  build : configOk s.cfg = true
  base : coreLocal s.cfg b.toNat = true
  inside : ∀ k, k < n → inDccm s.cfg (a.toNat + k) = true
  sound : ∀ k, k < n → wordAddr (a.toNat + k) ∉ s.badWords

/-- `n` bytes at `a`, reached from the base address `b`, lie on the bus, and the access passes every check of R300: in one region,
which holds none of the core's own blocks; inside a window if there are windows; aligned if the region has side effects; the
base no address of the core's own. -/
structure BusAccess (s : State) (b a : Word) (n : Nat) : Prop where
  build : configOk s.cfg = true
  base : coreLocal s.cfg b.toNat = false
  region : regionOf (a.toNat + n - 1) = regionOf a.toNat
  outside : dRegion s.cfg a.toNat = false
  windows : windowsAllow s.cfg.dataWindows a.toNat (a.toNat + n - 1) = true
  aligned : s.sideEffectAt s.cur a.toNat = true → a.toNat % n = 0

/-- The platform answers every store that waits in the buffer of hart `h` with memory. -/
def State.BufferAnswered (s : State) (h : HartId) : Prop :=
  ∀ p ∈ (s.hartAt h).buffer, s.busAnswers .write p.addr.toNat p.size = true

/-- `a` is the address of an aligned word of the DCCM without a double-bit error, in a build with atomics: what 42_a.md R461 asks
of an atomic. -/
structure AtomicAccess (s : State) (a : Word) : Prop where
  build : configOk s.cfg = true
  atomics : s.cfg.atomicEnable = true
  aligned : a.toNat % 4 = 0
  inside : inDccm s.cfg a.toNat = true
  sound : a.toNat ∉ s.badWords

/-! ## When the next step is the instruction at the pc -/

/-- The executing hart runs, and the next step is its next instruction boundary: the build is one, no move of the environment
waits, the core is out of reset, no halt is asked for, the hart is not single-stepped and has no access in progress, and the buses
answer. -/
structure State.AtBoundary (s : State) : Prop where
  build : configOk s.cfg = true
  hart : s.cur = .t0 ∨ s.cfg.dualThread = true
  inputs : s.env.inputs = []
  outOfReset : s.heldInReset = false
  active : s.hart.activity = .running
  noStep : s.hart.dbg.stepping = false
  idle : s.hart.inFlight = none
  noHalt : s.haltRequested s.cur = false
  noSleep : s.hart.power.pmuHaltPending = false
  answered : s.env.stall.get s.cur = ⟨false, false⟩

/-- Nothing comes before the instruction at the executing hart's `pc`, and it takes one step: the hart is at a boundary, no NMI,
interrupt, pause or trigger stands before the instruction, and the environment does not part split accesses. -/
structure State.Ready (s : State) : Prop extends s.AtBoundary where
  noPause : s.hart.power.pauseCount = 0
  noNmi : s.hart.nmi.pending = false
  noInterrupt : s.interruptToTake s.cur = none
  noTrigger : s.hart.trig.armed = false
  whole : s.env.splits = false

/-- A step from `s` that neither faults nor refuses. -/
def State.StepsOn (s : State) : Prop := ∃ t, step s = .next t

end Sys2Proof.Machine
end

