-- ==== Sys2Proof/Certificates/Slice0/Obligations.lean ====
section
/-! DEFINITION. The statements for the provers. Values are written with the arithmetic of integers, naturals and bits, not with
the machine's own functions, and every statement of an instruction's result says that the instruction completes and what it
leaves unchanged (`Computes`, `GoesTo`, `Traps`, … of Safety.lean). -/

open Sys2Proof Sys2Proof.Machine

/-! ## Encoding -/

/-- Words written out in the examples of 40_rv32i.md, 42_a.md, 43_c.md, 44, 45 and 46 decode to the instructions they stand
for. -/
def Obligations.DecodeSampleWords : Prop :=
  decode [0xB7, 0x52, 0x34, 0x12] = .ok (.lui 5 0x12345, []) ∧
  decode [0xEF, 0x00, 0x80, 0x00] = .ok (.jal 1 4, []) ∧
  decode [0xE7, 0x80, 0x42, 0x00] = .ok (.jalr 1 5 4, []) ∧
  decode [0x63, 0x88, 0x20, 0x00] = .ok (.beq 1 2 8, []) ∧
  decode [0x83, 0x22, 0x83, 0x00] = .ok (.lw 5 6 8, []) ∧
  decode [0x23, 0x26, 0x53, 0x00] = .ok (.sw 5 6 12, []) ∧
  decode [0x93, 0x02, 0xF3, 0xFF] = .ok (.addi 5 6 0xFFF, []) ∧
  decode [0xB3, 0x42, 0x73, 0x02] = .ok (.div 5 6 7, []) ∧
  decode [0xAF, 0x22, 0x03, 0x10] = .ok (.lrW 5 6 false false, []) ∧
  decode [0xF3, 0x12, 0x03, 0x34] = .ok (.csrrw 5 0x340 6, []) ∧
  decode [0x93, 0x52, 0x83, 0x69] = .ok (.rev8 5 6, []) ∧
  decode [0xB3, 0x62, 0x73, 0x08] = .ok (.bcompress 5 6 7, []) ∧
  decode [0x00, 0x08] = .ok (.cAddi4spn 0 4, []) ∧
  decode [0xA2, 0x42] = .ok (.cLwsp 5 2, [])

/-- Decoding what the encoder writes for a well-formed instruction gives the instruction back, with every operand at every value
its field admits, whatever bytes follow. -/
def Obligations.DecodeAfterEncode : Prop :=
  ∀ (i : Instr) (rest : List Byte), i.WF → decode ((encode i).bytes ++ rest) = .ok (i, rest)

/-- Bytes that decode are exactly what the encoder writes for the instruction, and the instruction is well-formed: no two words
share an instruction, and every other word is rejected. -/
def Obligations.EncodeAfterDecode : Prop :=
  ∀ (l rest : List Byte) (i : Instr), decode l = .ok (i, rest) → i.WF ∧ l = (encode i).bytes ++ rest

/-! ## Reset -/

/-- After reset, in every build: the `pc` of hart 0 is the reset vector, it runs if `mpc_reset_run_req[0]` says so, hart 1 is
idle, every general register, interrupt enable and pending NMI is 0, memory lists nothing, nothing is buffered or reserved (R864 to
R866). The values of `mstatus`, `mtvec` and `mepc` are the spec's own decision D3; that memory lists nothing, and so reads 0, is the
model's choice, log entry 1. -/
def Obligations.ResetState : Prop :=
  ∀ cfg : Config,
    let s := State.resetWith cfg
    s.pc = cfg.rstVec ++ 0#1 ∧ (s.hart.activity = if cfg.mpcResetRun0 then .running else .dbHalt) ∧
    s.harts.t1.activity = .idle ∧ s.shared.start1 = false ∧
    (∀ (h : HartId) (r : RegIdx), (s.hartAt h).reg r = 0) ∧
    (∀ h : HartId, s.csrRead h .mstatus = 0x1800 ∧ s.csrRead h .mtvec = 0 ∧ s.csrRead h .mie = 0 ∧
      s.csrRead h .mepc = 0 ∧ s.csrRead h .mpmc = 2 ∧ s.csrRead h .mitb0 = 0xFFFFFFFF ∧
      s.csrRead h .mcycle = 0 ∧ (s.hartAt h).nmi.pending = false ∧ (s.hartAt h).reservation = none ∧
      (s.hartAt h).buffer = []) ∧
    s.shared.mrac = 0 ∧ s.mem = []

/-! ## Integer instructions -/

/-- `lui` and `auipc` (R401, R402). -/
def Obligations.UpperImmediates : Prop :=
  ∀ (rd : RegIdx) (imm : BitVec 20),
    encode (.lui rd imm) = .word (imm ++ rd ++ 0b0110111#7) ∧
    encode (.auipc rd imm) = .word (imm ++ rd ++ 0b0010111#7) ∧
    ComputesAlways (.lui rd imm) 4 rd (fun _ => BitVec.ofNat 32 (imm.toNat * 2 ^ 12)) ∧
    ComputesAlways (.auipc rd imm) 4 rd (fun s => s.pc + BitVec.ofNat 32 (imm.toNat * 2 ^ 12))

/-- `addi`, `slti`, `sltiu`, `xori`, `ori`, `andi`, `slli`, `srli`, `srai` (R419 to R427). -/
def Obligations.ImmediateOperations : Prop :=
  IsImmOp .addi 0b000 (fun a imm => BitVec.ofInt 32 (a.toInt + imm.toInt)) ∧
  IsImmOp .slti 0b010 (fun a imm => if a.toInt < imm.toInt then 1 else 0) ∧
  IsImmOp .sltiu 0b011 (fun a imm => if a.toNat < (imm.signExtend 32).toNat then 1 else 0) ∧
  IsImmOp .xori 0b100 (fun a imm => a ^^^ imm.signExtend 32) ∧
  IsImmOp .ori 0b110 (fun a imm => a ||| imm.signExtend 32) ∧
  IsImmOp .andi 0b111 (fun a imm => a &&& imm.signExtend 32) ∧
  IsShiftOp .slli 0b0000000 0b001 (fun a n => BitVec.ofNat 32 (a.toNat * 2 ^ n)) ∧
  IsShiftOp .srli 0b0000000 0b101 (fun a n => BitVec.ofNat 32 (a.toNat / 2 ^ n)) ∧
  IsShiftOp .srai 0b0100000 0b101 (fun a n => BitVec.ofInt 32 (a.toInt / 2 ^ n))

/-- `add`, `sub`, `sll`, `slt`, `sltu`, `xor`, `srl`, `sra`, `or`, `and`; a shift amount is `x[rs2]` modulo 32 (R428 to R437). -/
def Obligations.RegisterOperations : Prop :=
  IsRegOp .add 0b0000000 0b000 (fun a b => BitVec.ofNat 32 (a.toNat + b.toNat)) ∧
  IsRegOp .sub 0b0100000 0b000 (fun a b => BitVec.ofInt 32 (a.toInt - b.toInt)) ∧
  IsRegOp .slt 0b0000000 0b010 (fun a b => if a.toInt < b.toInt then 1 else 0) ∧
  IsRegOp .sltu 0b0000000 0b011 (fun a b => if a.toNat < b.toNat then 1 else 0) ∧
  IsRegOp .xor 0b0000000 0b100 (fun a b => a ^^^ b) ∧
  IsRegOp .or 0b0000000 0b110 (fun a b => a ||| b) ∧
  IsRegOp .and 0b0000000 0b111 (fun a b => a &&& b) ∧
  IsRegOp .sll 0b0000000 0b001 (fun a b => BitVec.ofNat 32 (a.toNat * 2 ^ (b.toNat % 32))) ∧
  IsRegOp .srl 0b0000000 0b101 (fun a b => BitVec.ofNat 32 (a.toNat / 2 ^ (b.toNat % 32))) ∧
  IsRegOp .sra 0b0100000 0b101 (fun a b => BitVec.ofInt 32 (a.toInt / 2 ^ (b.toNat % 32)))

/-- `jal` and `jalr`: the target, and the link value `pc + 4` (R403, R404). -/
def Obligations.Jumps : Prop :=
  ∀ (s : State) (rd rs1 : RegIdx) (off : BitVec 20) (imm : BitVec 12),
    (∃ t, exec (.jal rd off) s = .next t ∧ LinksTo s t (s.pc + BitVec.ofInt 32 (2 * off.toInt)) rd (s.pc + 4)) ∧
    (∃ t, exec (.jalr rd rs1 imm) s = .next t ∧
      LinksTo s t (BitVec.ofNat 32 ((s.reg rs1 + imm.signExtend 32).toNat / 2 * 2)) rd (s.pc + 4))

/-- The six conditional branches (R405 to R410). -/
def Obligations.Branches : Prop :=
  IsBranch .beq 0b000 (fun a b => decide (a = b)) ∧
  IsBranch .bne 0b001 (fun a b => decide (a ≠ b)) ∧
  IsBranch .blt 0b100 (fun a b => decide (a.toInt < b.toInt)) ∧
  IsBranch .bge 0b101 (fun a b => decide (b.toInt ≤ a.toInt)) ∧
  IsBranch .bltu 0b110 (fun a b => decide (a.toNat < b.toNat)) ∧
  IsBranch .bgeu 0b111 (fun a b => decide (b.toNat ≤ a.toNat))

/-! ## Multiply and divide -/

/-- `mul`, `mulh`, `mulhsu`, `mulhu`: the low or the high 32 bits of the exact product; `div`, `divu`, `rem`, `remu`, with their
results for a zero divisor and for the overflowing quotient (R451 to R458). -/
def Obligations.MultiplyAndDivide : Prop :=
  IsRegOp .mul 0b0000001 0b000 (fun a b => BitVec.ofNat 32 (a.toNat * b.toNat)) ∧
  IsRegOp .mulh 0b0000001 0b001 (fun a b => BitVec.ofInt 32 (a.toInt * b.toInt / 2 ^ 32)) ∧
  IsRegOp .mulhsu 0b0000001 0b010 (fun a b => BitVec.ofInt 32 (a.toInt * b.toNat / 2 ^ 32)) ∧
  IsRegOp .mulhu 0b0000001 0b011 (fun a b => BitVec.ofNat 32 (a.toNat * b.toNat / 2 ^ 32)) ∧
  IsRegOp .div 0b0000001 0b100 (fun a b => if b = 0 then 0xFFFFFFFF else BitVec.ofInt 32 (a.toInt.tdiv b.toInt)) ∧
  IsRegOp .divu 0b0000001 0b101 (fun a b => if b = 0 then 0xFFFFFFFF else BitVec.ofNat 32 (a.toNat / b.toNat)) ∧
  IsRegOp .rem 0b0000001 0b110 (fun a b => if b = 0 then a else BitVec.ofInt 32 (a.toInt.tmod b.toInt)) ∧
  IsRegOp .remu 0b0000001 0b111 (fun a b => if b = 0 then a else BitVec.ofNat 32 (a.toNat % b.toNat))

/-! ## Bit manipulation -/

/-- `sh1add`, `sh2add`, `sh3add`, `min`, `minu`, `max`, `maxu` (R551 to R553, R557 to R560). -/
def Obligations.ShiftedAddsMinimaMaxima : Prop :=
  IsRegOp .sh1add 0b0010000 0b010 (fun a b => BitVec.ofNat 32 (b.toNat + 2 * a.toNat)) ∧
  IsRegOp .sh2add 0b0010000 0b100 (fun a b => BitVec.ofNat 32 (b.toNat + 4 * a.toNat)) ∧
  IsRegOp .sh3add 0b0010000 0b110 (fun a b => BitVec.ofNat 32 (b.toNat + 8 * a.toNat)) ∧
  IsRegOp .min 0b0000101 0b100 (fun a b => BitVec.ofInt 32 (min a.toInt b.toInt)) ∧
  IsRegOp .minu 0b0000101 0b101 (fun a b => BitVec.ofNat 32 (min a.toNat b.toNat)) ∧
  IsRegOp .max 0b0000101 0b110 (fun a b => BitVec.ofInt 32 (max a.toInt b.toInt)) ∧
  IsRegOp .maxu 0b0000101 0b111 (fun a b => BitVec.ofNat 32 (max a.toNat b.toNat))

/-- `clz`, `ctz`, `cpop`, each by what its count means (R554 to R556). -/
def Obligations.BitCounts : Prop :=
  IsUnaryRel .clz 0x600 0b001 (fun a v => v.toNat ≤ 32 ∧ a.toNat < 2 ^ (32 - v.toNat) ∧
    (v.toNat < 32 → 2 ^ (31 - v.toNat) ≤ a.toNat)) ∧
  IsUnaryRel .ctz 0x601 0b001 (fun a v => v.toNat ≤ 32 ∧ (∀ i, i < v.toNat → a.getLsbD i = false) ∧
    (v.toNat < 32 → a.getLsbD v.toNat = true)) ∧
  IsUnaryOp .cpop 0x602 0b001 (fun a => BitVec.ofNat 32 ((List.range 32).filter fun i => a.getLsbD i).length)

/-- `sext.b`, `sext.h`, `zext.h`, `andn`, `orn`, `xnor` (R561 to R566). -/
def Obligations.ExtensionsAndNegatedLogic : Prop :=
  IsUnaryOp .sextB 0x604 0b001 (fun a => BitVec.ofInt 32 (((a.toNat + 2 ^ 7) % 2 ^ 8 : Nat) - 2 ^ 7)) ∧
  IsUnaryOp .sextH 0x605 0b001 (fun a => BitVec.ofInt 32 (((a.toNat + 2 ^ 15) % 2 ^ 16 : Nat) - 2 ^ 15)) ∧
  (∀ rd rs1 : RegIdx,
    encode (.zextH rd rs1) = .word (0b0000100#7 ++ 0#5 ++ rs1 ++ 0b100#3 ++ rd ++ 0b0110011#7) ∧
    ComputesAlways (.zextH rd rs1) 4 rd (fun s => BitVec.ofNat 32 ((s.reg rs1).toNat % 2 ^ 16))) ∧
  IsRegRel .andn 0b0100000 0b111 (fun a b v => ∀ i, i < 32 → v.getLsbD i = (a.getLsbD i && !b.getLsbD i)) ∧
  IsRegRel .orn 0b0100000 0b110 (fun a b v => ∀ i, i < 32 → v.getLsbD i = (a.getLsbD i || !b.getLsbD i)) ∧
  IsRegRel .xnor 0b0100000 0b100 (fun a b v => ∀ i, i < 32 → v.getLsbD i = (a.getLsbD i == b.getLsbD i))

/-- `rol`, `ror`, `rori`, `rev8`, `orc.b`, bit by bit (R567 to R571). -/
def Obligations.RotationsAndByteOperations : Prop :=
  IsRegRel .rol 0b0110000 0b001 (fun a b v => ∀ i, i < 32 → v.getLsbD ((i + b.toNat) % 32) = a.getLsbD i) ∧
  IsRegRel .ror 0b0110000 0b101 (fun a b v => ∀ i, i < 32 → v.getLsbD i = a.getLsbD ((i + b.toNat) % 32)) ∧
  IsShiftRel .rori 0b0110000 0b101 (fun a n v => ∀ i, i < 32 → v.getLsbD i = a.getLsbD ((i + n) % 32)) ∧
  IsUnaryRel .rev8 0x698 0b101 (fun a v => ∀ i, i < 32 → v.getLsbD i = a.getLsbD (8 * (3 - i / 8) + i % 8)) ∧
  IsUnaryRel .orcB 0x287 0b101 (fun a v => ∀ i, i < 32 →
    v.getLsbD i = (List.range 8).any fun j => a.getLsbD (i / 8 * 8 + j))

/-- `clmul`, `clmulh`, `clmulr`: bit `i` of the carry-less product is the parity of the pairs of bits whose numbers add up to
`i` (R572 to R574). -/
def Obligations.CarrylessProducts : Prop :=
  let bit (a b : Word) (i : Nat) : Bool :=
    decide (((List.range 32).filter fun j => b.getLsbD j && decide (j ≤ i) && a.getLsbD (i - j)).length % 2 = 1)
  IsRegRel .clmul 0b0000101 0b001 (fun a b v => ∀ i, i < 32 → v.getLsbD i = bit a b i) ∧
  IsRegRel .clmulh 0b0000101 0b011 (fun a b v => ∀ i, i < 32 → v.getLsbD i = bit a b (i + 32)) ∧
  IsRegRel .clmulr 0b0000101 0b010 (fun a b v => ∀ i, i < 32 → v.getLsbD i = bit a b (i + 31))

/-- The single-bit instructions, bit by bit (R575 to R582). -/
def Obligations.SingleBits : Prop :=
  IsRegRel .bset 0b0010100 0b001 (fun a b v => ∀ i, i < 32 → v.getLsbD i = (a.getLsbD i || i == b.toNat % 32)) ∧
  IsShiftRel .bseti 0b0010100 0b001 (fun a n v => ∀ i, i < 32 → v.getLsbD i = (a.getLsbD i || i == n)) ∧
  IsRegRel .bclr 0b0100100 0b001 (fun a b v => ∀ i, i < 32 → v.getLsbD i = (a.getLsbD i && i != b.toNat % 32)) ∧
  IsShiftRel .bclri 0b0100100 0b001 (fun a n v => ∀ i, i < 32 → v.getLsbD i = (a.getLsbD i && i != n)) ∧
  IsRegRel .binv 0b0110100 0b001 (fun a b v => ∀ i, i < 32 → v.getLsbD i = (a.getLsbD i != (i == b.toNat % 32))) ∧
  IsShiftRel .binvi 0b0110100 0b001 (fun a n v => ∀ i, i < 32 → v.getLsbD i = (a.getLsbD i != (i == n))) ∧
  IsRegOp .bext 0b0100100 0b101 (fun a b => BitVec.ofNat 32 (a.getLsbD (b.toNat % 32)).toNat) ∧
  IsShiftOp .bexti 0b0100100 0b101 (fun a n => BitVec.ofNat 32 (a.getLsbD n).toNat)

/-- `bcompress` and `bdecompress`: the bit of `x[rs1]` under the `k`-th 1 of the mask `x[rs2]`, counted from below, is bit `k` of the
compressed word; `pack`, `packh`, `packu`, `bfp` (R601 to R606). That `bfp` drops the bits of a field that runs past bit 31 is the
spec's own decision D25. -/
def Obligations.CompressPackAndPlace : Prop :=
  let rank (m : Word) (i : Nat) : Nat := ((List.range i).filter fun j => m.getLsbD j).length
  IsRegRel .bcompress 0b0000100 0b110 (fun a m v =>
    (∀ i, i < 32 → m.getLsbD i = true → v.getLsbD (rank m i) = a.getLsbD i) ∧
    ∀ k, rank m 32 ≤ k → v.getLsbD k = false) ∧
  IsRegRel .bdecompress 0b0100100 0b110 (fun a m v =>
    ∀ i, i < 32 → v.getLsbD i = (m.getLsbD i && a.getLsbD (rank m i))) ∧
  IsRegOp .pack 0b0000100 0b100 (fun a b => BitVec.ofNat 32 (b.toNat % 2 ^ 16 * 2 ^ 16 + a.toNat % 2 ^ 16)) ∧
  IsRegOp .packh 0b0000100 0b111 (fun a b => BitVec.ofNat 32 (b.toNat % 2 ^ 8 * 2 ^ 8 + a.toNat % 2 ^ 8)) ∧
  IsRegOp .packu 0b0100100 0b100 (fun a b => BitVec.ofNat 32 (b.toNat / 2 ^ 16 * 2 ^ 16 + a.toNat / 2 ^ 16)) ∧
  IsRegRel .bfp 0b0100100 0b111 (fun a b v =>
    let off := b.toNat / 2 ^ 16 % 32
    let len := if b.toNat / 2 ^ 24 % 16 = 0 then 16 else b.toNat / 2 ^ 24 % 16
    ∀ i, i < 32 → v.getLsbD i = if off ≤ i ∧ i < off + len then b.getLsbD (i - off) else a.getLsbD i)

/-- `grev`, `grevi`, `gorc`, `gorci`: stage `k` of the amount swaps bit `k` of the bit numbers (R607 to R610). -/
def Obligations.GeneralizedReverse : Prop :=
  let reversed (a : Word) (n : Nat) (v : Word) : Prop := ∀ i, i < 32 → v.getLsbD i = a.getLsbD (i ^^^ n)
  let combined (a : Word) (n : Nat) (v : Word) : Prop :=
    ∀ i, i < 32 → v.getLsbD i = (List.range 32).any fun j => decide (j &&& n = j) && a.getLsbD (i ^^^ j)
  IsRegRel .grev 0b0110100 0b101 (fun a b v => reversed a (b.toNat % 32) v) ∧
  IsShiftRel .grevi 0b0110100 0b101 reversed ∧
  IsRegRel .gorc 0b0010100 0b101 (fun a b v => combined a (b.toNat % 32) v) ∧
  IsShiftRel .gorci 0b0010100 0b101 combined

/-- `shfl`, `shfli`, `unshfl`, `unshfli`: stage `k` exchanges bits `k` and `k + 1` of the bit numbers, from 3 down to 0 or from
0 up to 3 (R611 to R614). -/
def Obligations.GeneralizedShuffle : Prop :=
  let swap (n k i : Nat) : Nat :=
    if n.testBit k && i.testBit k != i.testBit (k + 1) then i ^^^ (3 * 2 ^ k) else i
  let shuffled (a : Word) (n : Nat) (v : Word) : Prop :=
    ∀ i, i < 32 → v.getLsbD i = a.getLsbD (swap n 3 (swap n 2 (swap n 1 (swap n 0 i))))
  let unshuffled (a : Word) (n : Nat) (v : Word) : Prop :=
    ∀ i, i < 32 → v.getLsbD i = a.getLsbD (swap n 0 (swap n 1 (swap n 2 (swap n 3 i))))
  IsRegRel .shfl 0b0000100 0b001 (fun a b v => shuffled a (b.toNat % 16) v) ∧
  IsShift4Rel .shfli 0b0000100 0b001 shuffled ∧
  IsRegRel .unshfl 0b0000100 0b101 (fun a b v => unshuffled a (b.toNat % 16) v) ∧
  IsShift4Rel .unshfli 0b0000100 0b101 unshuffled

/-- `xperm.n`, `xperm.b`, `xperm.h`: element `k` is the element of `x[rs1]` that element `k` of `x[rs2]` names, or 0
(R615 to R617). -/
def Obligations.Permutations : Prop :=
  let permuted (sz : Nat) (a b v : Word) : Prop :=
    let element (w : Word) (k : Nat) : Nat := w.toNat / 2 ^ (sz * k) % 2 ^ sz
    ∀ k, k < 32 / sz → element v k = if element b k < 32 / sz then element a (element b k) else 0
  IsRegRel .xpermN 0b0010100 0b010 (permuted 4) ∧ IsRegRel .xpermB 0b0010100 0b100 (permuted 8) ∧
  IsRegRel .xpermH 0b0010100 0b110 (permuted 16)

/-- The six CRC instructions: 8, 16 or 32 steps of the shift register (R618 to R623). -/
def Obligations.CyclicRedundancyChecks : Prop :=
  let crc (poly n : Nat) (a : Word) : Word :=
    BitVec.ofNat 32 ((fun v => if v % 2 = 1 then v / 2 ^^^ poly else v / 2)^[n] a.toNat)
  IsUnaryOp .crc32B 0x610 0b001 (crc 0xEDB88320 8) ∧ IsUnaryOp .crc32H 0x611 0b001 (crc 0xEDB88320 16) ∧
  IsUnaryOp .crc32W 0x612 0b001 (crc 0xEDB88320 32) ∧ IsUnaryOp .crc32cB 0x618 0b001 (crc 0x82F63B78 8) ∧
  IsUnaryOp .crc32cH 0x619 0b001 (crc 0x82F63B78 16) ∧ IsUnaryOp .crc32cW 0x61A 0b001 (crc 0x82F63B78 32)

/-! ## Compressed instructions -/

/-- The compressed instructions that compute: the register-immediate forms (R481, R484, R485, R487 to R492, R500) and the
register-register forms (R493 to R496, R503, R506). -/
def Obligations.CompressedComputations : Prop :=
  ∀ (rd rs2 : RegIdx) (r q : CReg) (i6 : BitVec 6) (i8 : BitVec 8) (n : BitVec 5),
    ComputesAlways (.cAddi4spn r i8) 2 (creg r) (fun s => s.reg 2 + BitVec.ofNat 32 (4 * i8.toNat)) ∧
    ComputesAlways (.cNop i6) 2 0 (fun _ => 0) ∧
    ComputesAlways (.cAddi rd i6) 2 rd (fun s => BitVec.ofInt 32 ((s.reg rd).toInt + i6.toInt)) ∧
    ComputesAlways (.cLi rd i6) 2 rd (fun _ => BitVec.ofInt 32 i6.toInt) ∧
    ComputesAlways (.cAddi16sp i6) 2 2 (fun s => BitVec.ofInt 32 ((s.reg 2).toInt + 16 * i6.toInt)) ∧
    ComputesAlways (.cLui rd i6) 2 rd (fun _ => BitVec.ofInt 32 (2 ^ 12 * i6.toInt)) ∧
    ComputesAlways (.cSrli r n) 2 (creg r) (fun s => BitVec.ofNat 32 ((s.reg (creg r)).toNat / 2 ^ n.toNat)) ∧
    ComputesAlways (.cSrai r n) 2 (creg r) (fun s => BitVec.ofInt 32 ((s.reg (creg r)).toInt / 2 ^ n.toNat)) ∧
    ComputesAlways (.cAndi r i6) 2 (creg r) (fun s => s.reg (creg r) &&& i6.signExtend 32) ∧
    ComputesAlways (.cSlli rd n) 2 rd (fun s => BitVec.ofNat 32 ((s.reg rd).toNat * 2 ^ n.toNat)) ∧
    ComputesAlways (.cSub r q) 2 (creg r)
      (fun s => BitVec.ofInt 32 ((s.reg (creg r)).toInt - (s.reg (creg q)).toInt)) ∧
    ComputesAlways (.cXor r q) 2 (creg r) (fun s => s.reg (creg r) ^^^ s.reg (creg q)) ∧
    ComputesAlways (.cOr r q) 2 (creg r) (fun s => s.reg (creg r) ||| s.reg (creg q)) ∧
    ComputesAlways (.cAnd r q) 2 (creg r) (fun s => s.reg (creg r) &&& s.reg (creg q)) ∧
    ComputesAlways (.cMv rd rs2) 2 rd (fun s => s.reg rs2) ∧
    ComputesAlways (.cAdd rd rs2) 2 rd (fun s => BitVec.ofNat 32 ((s.reg rd).toNat + (s.reg rs2).toNat))

/-- The compressed jumps and branches: offsets are even, the link value is `pc + 2` (R486, R497 to R499, R502, R505). -/
def Obligations.CompressedControlFlow : Prop :=
  ∀ (s : State) (rs1 : RegIdx) (r : CReg) (off : BitVec 11) (b : BitVec 8),
    (∃ t, exec (.cJal off) s = .next t ∧ LinksTo s t (s.pc + BitVec.ofInt 32 (2 * off.toInt)) 1 (s.pc + 2)) ∧
    (∃ t, exec (.cJalr rs1) s = .next t ∧
      LinksTo s t (BitVec.ofNat 32 ((s.reg rs1).toNat / 2 * 2)) 1 (s.pc + 2)) ∧
    (∃ t, exec (.cJ off) s = .next t ∧ GoesTo s t (s.pc + BitVec.ofInt 32 (2 * off.toInt))) ∧
    (∃ t, exec (.cJr rs1) s = .next t ∧ GoesTo s t (BitVec.ofNat 32 ((s.reg rs1).toNat / 2 * 2))) ∧
    (∃ t, exec (.cBeqz r b) s = .next t ∧
      GoesTo s t (if s.reg (creg r) = 0 then s.pc + BitVec.ofInt 32 (2 * b.toInt) else s.pc + 2)) ∧
    (∃ t, exec (.cBnez r b) s = .next t ∧
      GoesTo s t (if s.reg (creg r) ≠ 0 then s.pc + BitVec.ofInt 32 (2 * b.toInt) else s.pc + 2))

/-! ## Loads and stores -/

/-- Every load form (`lb`, `lh`, `lw`, `lbu`, `lhu`, `c.lw`, `c.lwsp`) from the DCCM, aligned or not: the bytes of memory,
little-endian, widened (R411 to R415, R305, R307). -/
def Obligations.LoadsFromDccm : Prop :=
  ∀ (s : State) (i : Instr) (len : Nat) (rd rb : RegIdx) (off : Word) (n : Nat) (signed : Bool),
    IsLoad i len rd rb off n signed → DccmAccess s (s.reg rb) (s.reg rb + off) n →
    ∃ t, exec i s = .next t ∧
      Computes s t len rd (widen signed n (littleEndian (fun k => memRead s.mem ((s.reg rb + off).toNat + k)) n))

/-- Every load form from the bus, where the platform answers its request (`readAnswered`: the exact bytes for a load with side effects, else
each double-word they touch), or waiting stores hold all its bytes (`forwarded`), and where the platform answers every store that waits:
the bytes as the hart sees them, its own waiting stores before memory (R271 to R273, R305). Which requests a load makes is the model's
reading, log entry 57. -/
def Obligations.LoadsFromBusMemory : Prop :=
  ∀ (s : State) (i : Instr) (len : Nat) (rd rb : RegIdx) (off : Word) (n : Nat) (signed : Bool),
    IsLoad i len rd rb off n signed → BusAccess s (s.reg rb) (s.reg rb + off) n →
    (s.readAnswered (s.reg rb + off).toNat n (s.sideEffectAt s.cur (s.reg rb + off).toNat) = true ∨
      s.forwarded (s.reg rb + off) n = true) →
    s.BufferAnswered s.cur →
    ∃ t, exec i s = .next t ∧ LoadsFromBus s t len rd
      (widen signed n (littleEndian (fun k => s.viewByte s.cur (s.reg rb + off + BitVec.ofNat 32 k)) n))

/-- A load that the bus answers with an error completes: its value is not stated. A waiting store that the bus answers with an
error is reported when it drains, at the latest by a `fence`; memory does not change. In both cases the first error is captured in
`mdseac` (for a store, the address of its instruction) and asks for an NMI, a later one is ignored; but a store's error takes the
place of a load's that was captured in the same clock cycle (R320, R690). Which requests a load makes is log entry 57. -/
def Obligations.BusErrorsAreImprecise : Prop :=
  (∀ (s : State) (i : Instr) (len : Nat) (rd rb : RegIdx) (off : Word) (n : Nat) (signed : Bool),
    IsLoad i len rd rb off n signed → BusAccess s (s.reg rb) (s.reg rb + off) n →
    s.readAnswered (s.reg rb + off).toNat n (s.sideEffectAt s.cur (s.reg rb + off).toNat) = false → s.hart.buffer = [] →
    ∃ v t, exec i s = .next t ∧ Writes s t rd v ∧ t.pc = s.pc + BitVec.ofNat 32 len ∧ CountedOnce s.hart t.hart ∧
      SameMemory s t ∧
      t.hart.nmi = (if s.hart.nmi.locked then s.hart.nmi
        else { s.hart.nmi with mdseac := s.reg rb + off, locked := true, bus := some .load, loadNow := true }) ∧
      t = s.mapHart fun h => { h with regs := t.hart.regs, pc := t.hart.pc, ctr := t.hart.ctr, nmi := t.hart.nmi }) ∧
  ∀ (s : State) (p : PendingStore) (fm pred succ : BitVec 4) (rs1 rd : RegIdx),
    s.hart.buffer = [p] → s.busAnswers .write p.addr.toNat p.size = false →
    ∃ t, exec (.fence fm pred succ rs1 rd) s = .next t ∧ SameMemory s t ∧ t.hart.buffer = [] ∧
      t.hart.nmi = if s.hart.nmi.locked = true ∧ s.hart.nmi.loadNow = false then s.hart.nmi
        else { s.hart.nmi with mdseac := p.target, locked := true, bus := some .store, loadNow := false }

/-- Every store form (`sb`, `sh`, `sw`, `c.sw`, `c.swsp`) into the DCCM changes exactly its bytes, and the other hart's
reservation if it holds one of them (R416 to R418, R267, R305, R462). That any store which overlaps the reserved word clears that
reservation is the spec's own decision D24. A store that is not stopped by a double-bit error in a word it touches, because it is an aligned
word or `mfdc.cecd` is 1, changes its bytes as well, and leaves every word it touches with good ECC (R267, R307). -/
def Obligations.StoresToDccm : Prop :=
  ∀ (s : State) (i : Instr) (len : Nat) (rs rb : RegIdx) (off : Word) (n : Nat), IsStore i len rs rb off n →
    let a := s.reg rb + off
    (DccmAccess s (s.reg rb) a n → ∃ t, exec i s = .next t ∧ StoresDccm s t len a n (s.reg rs)) ∧
    (configOk s.cfg = true → coreLocal s.cfg (s.reg rb).toNat = true → (∀ k, k < n → inDccm s.cfg (a.toNat + k) = true) →
      (n = 4 ∧ a.toNat % 4 = 0 ∨ s.shared.mfdc.getLsbD 8 = true) →
      ∃ t, exec i s = .next t ∧
        (∀ w, w ∈ t.badWords ↔ w ∈ s.badWords ∧ ∀ k, k < n → w ≠ wordAddr (a.toNat + k)) ∧
        StoresDccm { s with badWords := t.badWords } t len a n (s.reg rs))

/-- Every store form to the bus waits in the hart's buffer, behind the older ones, and the hart sees it at once
(R272 to R274). That no store is merged with an older one is the model's choice, log entry 25; how a misaligned one is cut into
transactions is log entry 57. -/
def Obligations.StoresToBus : Prop :=
  ∀ (s : State) (i : Instr) (len : Nat) (rs rb : RegIdx) (off : Word) (n : Nat),
    IsStore i len rs rb off n → BusAccess s (s.reg rb) (s.reg rb + off) n →
    ∃ t, exec i s = .next t ∧ BuffersStore s t len (s.reg rb + off) n (s.reg rs)

/-- The checks of a load, the first one that hits: across a region, misaligned with side effects, unmapped in a core-local region,
outside the windows, base and address on different sides, a PIC register not as a word, a double-bit error in a word it touches. Nothing
but the exception happens (R300, R650). That misalignment comes before an access fault is the spec's own decision D19; that an access with
its first and last byte in different windows is outside them is its decision D18 (R284). -/
def Obligations.LoadChecks : Prop :=
  ∀ (s : State) (i : Instr) (len : Nat) (rd rb : RegIdx) (off : Word) (n : Nat) (signed : Bool),
    IsLoad i len rd rb off n signed →
    let a := s.reg rb + off
    let x := a.toNat
    let e := x + n - 1
    let own := dRegion s.cfg x
    let raises (c : Cause) : Prop := ∃ t, exec i s = .next t ∧ Traps s t c a
    if regionOf x ≠ regionOf e then raises ⟨4, 2⟩
    else if own = false ∧ s.sideEffectAt s.cur x = true ∧ x % n ≠ 0 then raises ⟨4, 1⟩
    else if own = true ∧ ¬(inDccm s.cfg x = true ∧ inDccm s.cfg e = true) ∧
      ¬(inPic s.cfg x = true ∧ inPic s.cfg e = true) then raises ⟨5, 2⟩
    else if own = false ∧ windowsAllow s.cfg.dataWindows x e = false then raises ⟨5, 3⟩
    else if coreLocal s.cfg (s.reg rb).toNat ≠ coreLocal s.cfg x then raises ⟨5, 5⟩
    else if inPic s.cfg x = true ∧ (n ≠ 4 ∨ x % 4 ≠ 0) then raises ⟨5, 6⟩
    else if inDccm s.cfg x = true ∧ s.shared.mfdc.getLsbD 8 = false ∧ (wordAddr x ∈ s.badWords ∨ wordAddr e ∈ s.badWords) then
      raises ⟨5, 1⟩
    else True

/-- The checks of a store, in the same order, with the store/AMO codes; a whole aligned word is not checked for double-bit errors
(R300, R307, R650). That misalignment comes before an access fault is the spec's own decision D19; that an access with its first and last
byte in different windows is outside them is its decision D18 (R284). -/
def Obligations.StoreChecks : Prop :=
  ∀ (s : State) (i : Instr) (len : Nat) (rs rb : RegIdx) (off : Word) (n : Nat),
    IsStore i len rs rb off n →
    let a := s.reg rb + off
    let x := a.toNat
    let e := x + n - 1
    let own := dRegion s.cfg x
    let raises (c : Cause) : Prop := ∃ t, exec i s = .next t ∧ Traps s t c a
    if regionOf x ≠ regionOf e then raises ⟨6, 2⟩
    else if own = false ∧ s.sideEffectAt s.cur x = true ∧ x % n ≠ 0 then raises ⟨6, 1⟩
    else if own = true ∧ ¬(inDccm s.cfg x = true ∧ inDccm s.cfg e = true) ∧
      ¬(inPic s.cfg x = true ∧ inPic s.cfg e = true) then raises ⟨7, 2⟩
    else if own = false ∧ windowsAllow s.cfg.dataWindows x e = false then raises ⟨7, 3⟩
    else if coreLocal s.cfg (s.reg rb).toNat ≠ coreLocal s.cfg x then raises ⟨7, 5⟩
    else if inPic s.cfg x = true ∧ (n ≠ 4 ∨ x % 4 ≠ 0) then raises ⟨7, 6⟩
    else if inDccm s.cfg x = true ∧ s.shared.mfdc.getLsbD 8 = false ∧ ¬(n = 4 ∧ x % 4 = 0) ∧
      (wordAddr x ∈ s.badWords ∨ wordAddr e ∈ s.badWords) then raises ⟨7, 1⟩
    else True

/-- `sw` and `lw` on the memory-mapped registers of the PIC, in either priority order. Those of interrupt source `k + 1`: priority (inverted
in reverse order), enable, gateway configuration, gateway clear, delegation. Those of the core: the priority order, and the pending bits
of all sources and, in a dual-thread build, of the hart's own (R181 to R190, R723, R724). A store changes its field and nothing else of
the machine; where there is no field it is dropped. A gateway that is configured as edge-triggered has a pending flag that is not stated
until it is cleared (93 U14). That every source has a configurable gateway is the spec's own decision D16; that a store to `meigwclr`
clears the flag of a clock-gated gateway too is log entry 36. -/
def Obligations.PicRegisters : Prop :=
  ∀ (s : State) (rs rd rb : RegIdx) (imm : BitVec 12),
    configOk s.cfg = true → coreLocal s.cfg (s.reg rb).toNat = true →
    let a := (s.reg rb + imm.signExtend 32).toNat
    let v := s.reg rs
    let ordered (n : BitVec 4) : BitVec 4 := if s.pic.priord then 15 - n else n
    let stores (p : Pic) : Prop := ∃ t, exec (.sw rs rb imm) s = .next t ∧ Retires s t 4 ∧
      t = { s.mapHart fun h => { h with pc := t.hart.pc, ctr := t.hart.ctr } with pic := p }
    let loads (w : Word) : Prop := ∃ t, exec (.lw rd rb imm) s = .next t ∧ Computes s t 4 rd w
    let pending (x : Source) : Bool := if x.edge then x.ip else x.sync != x.low
    let showsPending (n : Nat) (shown : Source → Bool) : Prop :=
      ∃ w : Word, loads w ∧ ∀ y, y < 32 →
        (w.getLsbD y = true ↔ ∃ k x, k + 1 = 32 * n + y ∧ s.pic.sources[k]? = some x ∧ pending x = true ∧ shown x = true)
    (∀ (k : Nat) (x : Source), s.pic.sources[k]? = some x → k < 255 →
      let source (y : Source) : Pic := { s.pic with sources := s.pic.sources.set k y }
      (a = picBase s.cfg + 4 * (k + 1) →
        stores (source { x with pri := ordered (v.setWidth 4) }) ∧ loads ((ordered x.pri).setWidth 32)) ∧
      (a = picBase s.cfg + 0x2000 + 4 * (k + 1) →
        stores (source { x with en := v.getLsbD 0 }) ∧ loads (BitVec.ofNat 32 x.en.toNat)) ∧
      (a = picBase s.cfg + 0x4000 + 4 * (k + 1) →
        (∃ ip, (v.getLsbD 1 = false → ip = x.ip) ∧
          stores (source { x with edge := v.getLsbD 1, low := v.getLsbD 0, ip := ip })) ∧
        loads (BitVec.ofNat 32 (2 * x.edge.toNat + x.low.toNat))) ∧
      (a = picBase s.cfg + 0x5000 + 4 * (k + 1) → stores (source { x with ip := x.sync != x.low }) ∧ loads 0) ∧
      (a = picBase s.cfg + 0x6000 + 4 * (k + 1) →
        stores (if s.cfg.dualThread then source { x with del := v.getLsbD 0 } else s.pic) ∧
        loads (if s.cfg.dualThread then BitVec.ofNat 32 x.del.toNat else 0))) ∧
    (a = picBase s.cfg + 0x3000 →
      stores { s.pic with priord := v.getLsbD 0 } ∧ loads (BitVec.ofNat 32 s.pic.priord.toNat)) ∧
    ∀ n, n < 8 →
      (a = picBase s.cfg + 0x1000 + 4 * n → stores s.pic ∧ showsPending n fun _ => true) ∧
      (a = picBase s.cfg + 0x1800 + 4 * n → stores s.pic ∧
        (s.cfg.dualThread = true → showsPending n fun x => x.del == decide (s.cur = .t1)) ∧
        (s.cfg.dualThread = false → loads 0))

/-! ## Fences and atomics -/

/-- `fence`, whatever its fields, completes with an empty buffer: every byte of memory is what the hart saw before, the hart's accesses use
the attributes in `mrac` from now on, and nothing else changes. `fence.i`, whatever its fields, does the same, for fetches too, and leaves
no valid line in the I-cache (R101, R279, R280, R440, R537). -/
def Obligations.Fences : Prop :=
  ∀ s : State, configOk s.cfg = true → s.BufferAnswered s.cur →
    (∀ (fm pred succ : BitVec 4) (rs1 rd : RegIdx),
      ∃ t, exec (.fence fm pred succ rs1 rd) s = .next t ∧ Retires s t 4 ∧ t.hart.buffer = [] ∧
        (∀ x : Word, memRead t.mem x.toNat = s.viewByte s.cur x) ∧
        (∀ a, t.sideEffectAt s.cur a = (!inIccm s.cfg a && sideEffect s.shared.mrac a)) ∧
        { t with mem := s.mem } =
          s.mapHart fun h => { h with
            pc := t.hart.pc, ctr := t.hart.ctr, buffer := t.hart.buffer, seen := t.hart.seen }) ∧
    ∀ (imm : BitVec 12) (rs1 rd : RegIdx),
      ∃ t, exec (.fenceI imm rs1 rd) s = .next t ∧ Retires s t 4 ∧ t.hart.buffer = [] ∧
        (∀ x : Word, memRead t.mem x.toNat = s.viewByte s.cur x) ∧
        (∀ way set : Nat, (t.icache.tagAt way set).valid = false) ∧
        (∀ a, t.sideEffectAt s.cur a = (!inIccm s.cfg a && sideEffect s.shared.mrac a)) ∧
        (∀ a, t.cacheableAt s.cur a = cacheable s.shared.mrac a) ∧
        { t with mem := s.mem, icache := s.icache } =
          s.mapHart fun h => { h with
            pc := t.hart.pc, ctr := t.hart.ctr, buffer := t.hart.buffer, seen := t.hart.seen }

/-- `lr.w`: after the implicit fence, the DCCM word goes to `rd` and the hart holds a reservation on it (R281, R463). -/
def Obligations.LoadReserved : Prop :=
  ∀ (s : State) (rd rs1 : RegIdx) (aq rl : Bool), AtomicAccess s (s.reg rs1) →
    ∃ t, exec (.lrW rd rs1 aq rl) s = .next t ∧ Writes s t rd (memReadWord s.mem (s.reg rs1)) ∧ t.pc = s.pc + 4 ∧
      CountedOnce s.hart t.hart ∧ t.hart.reservation = some (s.reg rs1) ∧ t.mem = (s.drainAll s.cur).mem ∧
      t = (s.fenceOp s.cur).mapHart fun h =>
        { h with regs := t.hart.regs, pc := t.hart.pc, ctr := t.hart.ctr, reservation := t.hart.reservation }

/-- `sc.w`: with a reservation on exactly its word it stores `x[rs2]` there, takes the other hart's reservation on that word away and
leaves 0; else it stores nothing and leaves 1. The hart's reservation is gone either way (R462, R464). -/
def Obligations.StoreConditional : Prop :=
  ∀ (s : State) (rd rs1 rs2 : RegIdx) (aq rl : Bool), AtomicAccess s (s.reg rs1) →
    let a := s.reg rs1
    let d := s.fenceOp s.cur
    ∃ t, exec (.scW rd rs1 rs2 aq rl) s = .next t ∧ t.pc = s.pc + 4 ∧ CountedOnce s.hart t.hart ∧
      t.hart.reservation = none ∧
      (if s.hart.reservation = some a then
        Writes s t rd 0 ∧ memReadWord t.mem a = s.reg rs2 ∧ SameMemoryOutside d t a 4 ∧
          ∀ w, (s.hartAt s.cur.other).reservation = some w →
            (t.hartAt s.cur.other).reservation =
              if a.toNat < w.toNat + 4 ∧ w.toNat < a.toNat + 4 then none else some w
      else Writes s t rd 1 ∧ t.mem = d.mem ∧ t.hartAt s.cur.other = s.hartAt s.cur.other) ∧
      { t with mem := d.mem, harts := d.harts } = d ∧
      { t.hartAt s.cur.other with reservation := none } = { s.hartAt s.cur.other with reservation := none } ∧
      t.hart = { d.hart with regs := t.hart.regs, pc := t.hart.pc, ctr := t.hart.ctr, reservation := none }

/-- The nine AMOs: the DCCM word goes to `rd`, and the operation of it and `x[rs2]` goes to memory, in one step; `rd`, `rs1` and `rs2` may
be the same register (R465 to R473). -/
def Obligations.AtomicMemoryOperations : Prop :=
  let isAmo (i : RegIdx → RegIdx → RegIdx → Bool → Bool → Instr) (f5 : BitVec 5) (op : Word → Word → Word) : Prop :=
    ∀ (rd rs1 rs2 : RegIdx) (aq rl : Bool),
      encode (i rd rs1 rs2 aq rl) = .word (f5 ++ BitVec.ofBool aq ++ BitVec.ofBool rl ++ rs2 ++ rs1 ++ 0b010#3 ++ rd ++
        0b0101111#7) ∧
      ∀ s : State, AtomicAccess s (s.reg rs1) →
        let a := s.reg rs1
        let d := s.fenceOp s.cur
        ∃ t, exec (i rd rs1 rs2 aq rl) s = .next t ∧ Writes s t rd (memReadWord s.mem a) ∧ t.pc = s.pc + 4 ∧
          CountedOnce s.hart t.hart ∧ memReadWord t.mem a = op (memReadWord s.mem a) (s.reg rs2) ∧
          SameMemoryOutside d t a 4 ∧
          (∀ w, (s.hartAt s.cur.other).reservation = some w → (t.hartAt s.cur.other).reservation =
            if a.toNat < w.toNat + 4 ∧ w.toNat < a.toNat + 4 then none else some w) ∧
          { t with mem := d.mem, harts := d.harts } = d ∧
          { t.hartAt s.cur.other with reservation := none } = { s.hartAt s.cur.other with reservation := none } ∧
          t.hart = { d.hart with regs := t.hart.regs, pc := t.hart.pc, ctr := t.hart.ctr }
  isAmo .amoswapW 0b00001 (fun _ b => b) ∧
  isAmo .amoaddW 0b00000 (fun a b => BitVec.ofNat 32 (a.toNat + b.toNat)) ∧
  isAmo .amoxorW 0b00100 (fun a b => a ^^^ b) ∧
  isAmo .amoandW 0b01100 (fun a b => a &&& b) ∧
  isAmo .amoorW 0b01000 (fun a b => a ||| b) ∧
  isAmo .amominW 0b10000 (fun a b => BitVec.ofInt 32 (min a.toInt b.toInt)) ∧
  isAmo .amomaxW 0b10100 (fun a b => BitVec.ofInt 32 (max a.toInt b.toInt)) ∧
  isAmo .amominuW 0b11000 (fun a b => BitVec.ofNat 32 (min a.toNat b.toNat)) ∧
  isAmo .amomaxuW 0b11100 (fun a b => BitVec.ofNat 32 (max a.toNat b.toNat))

/-- In a core without atomics every atomic is an illegal instruction, with the word in `mtval` and no fence before it (R460, R654); it
raises that exception at once, whether or not the SoC withholds its answers to waiting stores (R655).
In a core with them, the checks of an atomic after its implicit fence, the first one that hits: across a region, unmapped in a core-local
region, outside the windows, no aligned DCCM word, a double-bit error (R281, R310, R461); `lr.w` with the codes of a load, the others with
those of a store/AMO. That an AMO reports the store code is the spec's own decision D21, the word in `mtval` of an illegal one its decision
D5 (R652), and that a word with its first and last byte in different windows is outside them its decision D18 (R284). -/
def Obligations.AtomicsThatTrap : Prop :=
  (∀ (s : State) (rd rs1 rs2 : RegIdx) (aq rl : Bool), (s.cfg.atomicEnable = false ∨ s.cfg.dccmEnable = false) →
    ∀ i ∈ Instr.lrW rd rs1 aq rl ::
        ([Instr.scW, .amoswapW, .amoaddW, .amoxorW, .amoandW, .amoorW, .amominW, .amomaxW, .amominuW, .amomaxuW].map
          fun f => f rd rs1 rs2 aq rl),
      ∃ t, exec i s = .next t ∧ Traps s t ⟨2, 0⟩ (encode i).bits ∧ s.runInstr i = .next t.begun.complete) ∧
  ∀ (s : State) (rd rs1 rs2 : RegIdx) (aq rl : Bool), s.cfg.atomicEnable = true → s.cfg.dccmEnable = true →
    let a := s.reg rs1
    let x := a.toNat
    let own := dRegion s.cfg x
    let checks (i : Instr) (misaligned access : Word) : Prop :=
      let raises (c : Cause) : Prop := ∃ t, exec i s = .next t ∧ Traps (s.fenceOp s.cur) t c a
      if regionOf x ≠ regionOf (x + 3) then raises ⟨misaligned, 2⟩
      else if own = true ∧ ¬(inDccm s.cfg x = true ∧ inDccm s.cfg (x + 3) = true) ∧
        ¬(inPic s.cfg x = true ∧ inPic s.cfg (x + 3) = true) then raises ⟨access, 2⟩
      else if own = false ∧ windowsAllow s.cfg.dataWindows x (x + 3) = false then raises ⟨access, 3⟩
      else if x % 4 ≠ 0 ∨ inDccm s.cfg x = false then raises ⟨access, 7⟩
      else if s.shared.mfdc.getLsbD 8 = false ∧ x ∈ s.badWords then raises ⟨access, 1⟩
      else True
    checks (.lrW rd rs1 aq rl) 4 5 ∧
    ∀ i ∈ [Instr.scW, .amoswapW, .amoaddW, .amoxorW, .amoandW, .amoorW, .amominW, .amomaxW, .amominuW, .amomaxuW],
      checks (i rd rs1 rs2 aq rl) 6 7

/-! ## System instructions and CSRs -/

/-- `ecall`, `ebreak` and `c.ebreak` (with `dcsr.ebreakm` = 0) take their exceptions, with the codes of R650; the instruction is not
counted. With `dcsr.ebreakm` = 1 a breakpoint enters Debug Mode: cause 1, `dpc` the address of the instruction, no trap register and
no general register changed, the reservation gone, the waiting stores performed (R441, R442, R462, R504, R670, R832). The values of
`mtval` are the spec's own decision D5. -/
def Obligations.CallsAndBreakpoints : Prop :=
  ∀ s : State,
    (∃ t, exec .ecall s = .next t ∧ Traps s t ⟨11, 0⟩ 0) ∧
    ∀ i : Instr, i = .ebreak ∨ i = .cEbreak →
      (s.hart.dbg.ebreakm = false → ∃ t, exec i s = .next t ∧ Traps s t ⟨3, 2⟩ s.pc) ∧
      (s.hart.dbg.ebreakm = true → ∃ t, exec i s = .next t ∧ t.hart.activity = .dbHalt ∧ t.hart.dbg.cause = 1 ∧
        t.hart.dbg.dpc = s.pc &&& 0xFFFFFFFE ∧ t.hart.reservation = none ∧ SameRegisters s t ∧
        t.hart.trap = s.hart.trap ∧ t.hart.ctr.minstret = s.hart.ctr.minstret ∧ t.hart.buffer = [] ∧
        t.mem = (s.drainAll s.cur).mem)

/-- `mret`: `pc` from `mepc`, `MIE` from `MPIE`, `MPIE` to 1, `MPP` stays 11, the reservation gone, nothing else but the count
(R539, R676). `wfi` only advances the `pc`: the hart does not stop (R540). The return of R676 does not clear the reservation itself;
that executing an `mret` clears it is what the list of R462 quotes and R539 says (log entry 6). -/
def Obligations.ReturnFromTrapAndWait : Prop :=
  encode .wfi = .word 0x10500073 ∧ encode .mret = .word 0x30200073 ∧
  ∀ s : State,
    (∃ t, exec .wfi s = .next t ∧ GoesTo s t (s.pc + 4)) ∧
    ∃ t, exec .mret s = .next t ∧ t.pc = s.hart.trap.mepc &&& 0xFFFFFFFE ∧
    t.hart.trap = { s.hart.trap with mstatusMie := s.hart.trap.mstatusMpie, mstatusMpie := true } ∧
    t.csrRead s.cur .mstatus &&& 0x1800 = 0x1800 ∧
    t.hart.reservation = none ∧ SameRegisters s t ∧ SameMemory s t ∧ CountedOnce s.hart t.hart ∧
    t = s.mapHart fun h =>
      { h with pc := t.hart.pc, trap := t.hart.trap, ctr := t.hart.ctr, reservation := t.hart.reservation }

/-- The six CSR instructions on `mscratch`: the old value to `rd`, the new one to the register; the immediate forms use the
five-bit field; `rd` and `rs1` may be the same register (R530 to R536, R538). -/
def Obligations.CsrInstructions : Prop :=
  ∀ (s : State) (rd rs1 : RegIdx) (u : BitVec 5),
    let old := s.hart.trap.mscratch
    let sets (i : Instr) (v : Word) : Prop := ∃ t, exec i s = .next t ∧ Writes s t rd old ∧ t.pc = s.pc + 4 ∧
      CountedOnce s.hart t.hart ∧ SameMemory s t ∧
      t = s.mapHart fun h => { h with
        regs := t.hart.regs, pc := t.hart.pc, ctr := t.hart.ctr, trap := { h.trap with mscratch := v } }
    sets (.csrrw rd 0x340 rs1) (s.reg rs1) ∧
    sets (.csrrs rd 0x340 rs1) (old ||| s.reg rs1) ∧
    sets (.csrrc rd 0x340 rs1) (old &&& ~~~s.reg rs1) ∧
    sets (.csrrwi rd 0x340 u) (BitVec.ofNat 32 u.toNat) ∧
    sets (.csrrsi rd 0x340 u) (old ||| BitVec.ofNat 32 u.toNat) ∧
    sets (.csrrci rd 0x340 u) (old &&& ~~~BitVec.ofNat 32 u.toNat)

/-- What each CSR that software in machine mode can write reads afterwards: the bits that are not there read 0, or what they are hardwired
to (R31, R37 to R42, R45, R105, R113, R115 to R117, R120 to R123, R125, R126, R200 to R205); a selector keeps a legal event number, else 0
(R47); `mcause` keeps a value that hardware may write (R41; which values those are is log entry 34); the 64-bit counters are two words
each, and an instruction that reads one sees it before it is counted itself (R43, R44, R46); an error counter never holds a threshold
above 26 (R107), and `mrac` never a region that is both cacheable and with side effects: the pair 11 is stored as 10 (R100); `mcpc`,
`mdeau` and `meicpct` read 0; `mip` and `misa` take no write (R32, R36); the last hart that handles the NMI pin stays (R113; log entry
38), and a started hart stays started (R112); a trigger that the debugger does not own takes the bits of `mcontrol` that software may
write (R216 to R218). Bit 1 of `mtvec` (D4), the stored bits of `mscause` (D14), and the low bit that `action` and `match` of `mcontrol`
keep of an unsupported value (D15) are the spec's own decisions. -/
def Obligations.CsrReadBack : Prop :=
  let notOwned (s : State) (_ : Word) : Prop := s.hart.trig.selected.dmode = false
  let chainable (s : State) : Bool :=
    (decide (s.hart.trig.tselect = 0) && !s.hart.trig.tr1.dmode) ||
      (decide (s.hart.trig.tselect = 2) && !s.hart.trig.tr3.dmode)
  ReadsBack 0x300 (fun v => v &&& 0x88 ||| 0x1800) ∧
  ReadsBackIf 0x301 (fun _ _ => True)
    (fun s _ => if s.cfg.atomicEnable ∧ s.cfg.dccmEnable then 0x40001105 else 0x40001104) ∧
  ReadsBack 0x304 (fun v => v &&& 0x70000888) ∧
  ReadsBack 0x305 (fun v => v &&& 0xFFFFFFFD) ∧
  ReadsBack 0x320 (fun v => v &&& 0x7D) ∧
  (∀ a ∈ [0x323, 0x324, 0x325, 0x326], ReadsBack a fun v =>
    if v.toNat ≤ 32 ∨ (34 ≤ v.toNat ∧ v.toNat ≤ 56) ∨ (512 ≤ v.toNat ∧ v.toNat ≤ 516) then v else 0) ∧
  ReadsBack 0x340 (fun v => v) ∧
  ReadsBack 0x341 (fun v => v &&& 0xFFFFFFFE) ∧
  ReadsBackIf 0x342 (fun _ v => v.toNat ≤ 7 ∨ v ∈ [11, 0x80000003, 0x80000007, 0x8000000B, 0x8000001C, 0x8000001D,
    0x8000001E, 0xF0000000, 0xF0000001, 0xF0001000, 0xF0001001, 0xF0001002]) (fun _ v => v) ∧
  ReadsBack 0x343 (fun v => v) ∧
  ReadsBackIf 0x344 (fun _ _ => True) (fun s _ => s.csrRead s.cur .mip) ∧
  ReadsBack 0x7A0 (fun v => v &&& 3) ∧
  ReadsBackIf 0x7A1 notOwned (fun s v => 0x23E00000 ||| (v &&& 0x001810C2) |||
    (if v.getLsbD 19 then 0 else v &&& 5) ||| (if chainable s then v &&& 0x800 else 0)) ∧
  ReadsBackIf 0x7A2 notOwned (fun _ v => v) ∧
  (∀ a ∈ [0x7C2, 0xBC0], ReadsBack a fun _ => 0) ∧
  ReadsBackIf 0xBCA (fun s _ => s.cfg.fastRedirect = false) (fun _ _ => 0) ∧
  ReadsBack 0x7C6 (fun v => v &&& 2) ∧
  ReadsBack 0x7CE (fun v => v &&& 0x3F) ∧
  ReadsBack 0x7CF (fun v => v &&& 3) ∧
  (∀ a ∈ [0x7D2, 0x7D3, 0x7D5, 0x7D6], ReadsBack a fun v => v) ∧
  ReadsBack 0x7D4 (fun v => v &&& 7) ∧
  ReadsBack 0x7D7 (fun v => v &&& 15) ∧
  ReadsBack 0x7F8 (fun v => v &&& 0x3FF) ∧
  ReadsBack 0x7F9 (fun v => v &&& 0x71D4D) ∧
  ReadsBackIf 0x7FC (fun _ _ => True)
    (fun s v => if s.shared.start1 = true ∨ (s.cfg.dualThread = true ∧ v.getLsbD 1 = true) then 3 else 1) ∧
  ReadsBackIf 0x7FE (fun _ _ => True) (fun s v =>
    let w := v &&& (if s.cfg.dualThread then 3 else 1)
    if w = 0 then s.shared.mnmipdel.setWidth 32 else w) ∧
  ReadsBack 0x7FF (fun v => v &&& 15) ∧
  ReadsBack 0xBC8 (fun v => v &&& 0xFFFFFC00) ∧
  (∀ a ∈ [0xBC9, 0xBCB, 0xBCC], ReadsBack a fun v => v &&& 15) ∧
  (∀ a ∈ [0x7F0, 0x7F1, 0x7F2],
    ReadsBack a fun v => BitVec.ofNat 32 (min (v.toNat / 2 ^ 27) 26 * 2 ^ 27 + v.toNat % 2 ^ 27)) ∧
  (∀ a ∈ [0xB00, 0xB02, 0xB03, 0xB04, 0xB05, 0xB06, 0xB80, 0xB82, 0xB83, 0xB84, 0xB85, 0xB86], ReadsBack a fun v => v) ∧
  ∀ (s : State) (rs1 : RegIdx), ∃ t, exec (.csrrw 0 0x7C0 rs1) s = .next t ∧ ∀ k, k < 16 →
    t.shared.mrac.getLsbD (2 * k + 1) = (s.reg rs1).getLsbD (2 * k + 1) ∧
    t.shared.mrac.getLsbD (2 * k) = ((s.reg rs1).getLsbD (2 * k) && !(s.reg rs1).getLsbD (2 * k + 1))

/-- CSRs that read what the build says, whatever was written (R32 to R35, R111), and the counters and selectors 7 to 31, which read
0 (R29). -/
def Obligations.ConstantCsrs : Prop :=
  ∀ rd : RegIdx,
    ComputesAlways (.csrrs rd 0xF11 0) 4 rd (fun _ => 0x45) ∧
    ComputesAlways (.csrrs rd 0xF12 0) 4 rd (fun _ => 0x11) ∧
    ComputesAlways (.csrrs rd 0xF13 0) 4 rd (fun _ => 3) ∧
    ComputesAlways (.csrrs rd 0xF14 0) 4 rd
      (fun s => BitVec.ofNat 32 (s.cfg.coreId.toNat * 16 + match s.cur with | .t0 => 0 | .t1 => 1)) ∧
    ComputesAlways (.csrrs rd 0xFC4 0) 4 rd (fun s => if s.cfg.dualThread then 2 else 1) ∧
    ComputesAlways (.csrrs rd 0x301 0) 4 rd
      (fun s => if s.cfg.atomicEnable ∧ s.cfg.dccmEnable then 0x40001105 else 0x40001104) ∧
    ∀ k, k < 25 → ∀ base ∈ [0x327, 0xB07, 0xB87],
      ComputesAlways (.csrrs rd (BitVec.ofNat 12 (base + k)) 0) 4 rd (fun _ => 0)

/-- CSR instructions that are illegal: any access to an address that names no register of Tables 13-1 to 13-3 and no counter or selector 7
to 31; a write to a read-only address, even one that would change no bit; any access to a CSR of Debug Mode; and any access to `meicpct`
in a build with the fast interrupt redirect. Nothing is read or written, and the word goes to `mtval`, which is the spec's own decision
D5; that the user counters (0xC00 and on) are not there is its decision D9 (R27 to R30, R203, R530, R531, R652, R654). -/
def Obligations.IllegalCsrAccesses : Prop :=
  ∀ (s : State) (rd rs1 : RegIdx) (u : BitVec 5) (a : BitVec 12),
    let raises (i : Instr) : Prop := ∃ t, exec i s = .next t ∧ Traps s t ⟨2, 0⟩ (encode i).bits
    let illegal : Prop := raises (.csrrw rd a rs1) ∧ raises (.csrrs rd a rs1) ∧ raises (.csrrc rd a rs1) ∧
      raises (.csrrwi rd a u) ∧ raises (.csrrsi rd a u) ∧ raises (.csrrci rd a u)
    let inRange (p : Nat × Nat) : Prop := p.1 ≤ a.toNat ∧ a.toNat ≤ p.2
    let listed : Prop := ∃ p ∈ [(0x300, 0x301), (0x304, 0x305), (0x320, 0x320), (0x323, 0x33F), (0x340, 0x344), (0x7A0, 0x7A2),
      (0x7B0, 0x7B1), (0x7C0, 0x7C0), (0x7C2, 0x7C2), (0x7C4, 0x7C4), (0x7C6, 0x7C6), (0x7C8, 0x7CC), (0x7CE, 0x7CF),
      (0x7D2, 0x7D7), (0x7F0, 0x7F2), (0x7F8, 0x7F9), (0x7FC, 0x7FC), (0x7FE, 0x7FF), (0xB00, 0xB00), (0xB02, 0xB1F),
      (0xB80, 0xB80), (0xB82, 0xB9F), (0xBC0, 0xBC0), (0xBC8, 0xBCC), (0xF11, 0xF14), (0xFC0, 0xFC0), (0xFC4, 0xFC4),
      (0xFC8, 0xFC8)], inRange p
    (¬ listed → illegal) ∧
    (0xC00 ≤ a.toNat → raises (.csrrw rd a rs1) ∧ raises (.csrrwi rd a u) ∧
      (rs1 ≠ 0 → raises (.csrrs rd a rs1) ∧ raises (.csrrc rd a rs1)) ∧
      (u ≠ 0 → raises (.csrrsi rd a u) ∧ raises (.csrrci rd a u))) ∧
    (a.toNat ∈ [0x7B0, 0x7B1, 0x7C4, 0x7C8, 0x7C9, 0x7CA, 0x7CB, 0x7CC] → illegal) ∧
    (a = 0xBCA → s.cfg.fastRedirect = true → illegal)

/-- A write to `tdata1` or `tdata2` from machine mode is ignored when the selected trigger has `dmode` = 1: each of the six CSR instructions
only reads the register into `rd` (R216 to R218). -/
def Obligations.TriggersAreProtected : Prop :=
  ∀ (s : State) (rd rs1 : RegIdx) (u : BitVec 5), s.hart.trig.selected.dmode = true →
    let reads (a : BitVec 12) (v : Word) : Prop :=
      ∀ i ∈ [Instr.csrrw rd a rs1, .csrrs rd a rs1, .csrrc rd a rs1, .csrrwi rd a u, .csrrsi rd a u, .csrrci rd a u],
        ∃ t, exec i s = .next t ∧ Computes s t 4 rd v
    reads 0x7A1 s.hart.trig.selected.tdata1 ∧ reads 0x7A2 s.hart.trig.selected.tdata2

/-! ## The step -/

/-- A step runs the decoded instruction: when nothing comes before it and the fetch gives bytes that decode to `i`, the step is `exec` of
`i` on the state after the fetch, then the mark that the hart has executed an instruction (`begun`, which changes only a hart 1 that was
just started), and then what ends every step (`settle`). -/
def Obligations.StepRunsDecodedInstruction : Prop :=
  ∀ (s u : State) (l rest : List Byte) (i : Instr), s.Ready → s.fetch = (.bytes l, u) → decode l = .ok (i, rest) →
    step s = mapNext (exec i u) fun t => t.begun.settle

/-- The fetch of an instruction by way of no cache: from memory at `pc`, the state unchanged; so the step is `exec` of the
instruction that the four bytes at `pc` start with, then `begun` and `settle` (R261, R290, R361). -/
def Obligations.StepRunsInstructionInMemory : Prop :=
  ∀ (s : State) (rest : List Byte) (i : Instr), s.Ready →
    decode [memRead s.mem (addrAt s.pc 0), memRead s.mem (addrAt s.pc 1), memRead s.mem (addrAt s.pc 2),
      memRead s.mem (addrAt s.pc 3)] = .ok (i, rest) →
    (∀ k, 2 * k < (encode i).length → s.fetchFault (addrAt s.pc (2 * k)) = none ∧ s.usesCache (addrAt s.pc (2 * k)) = false) →
    step s = mapNext (exec i s) fun t => t.begun.settle

/-- Bytes that are no instruction raise the illegal-instruction exception, with the bits in `mtval` (R652, R654; the spec's own decision
D5). A fetch that a check of R291 stops, at its first parcel or at the second one of a 32-bit instruction, raises an instruction access
fault with the secondary cause of the first check that hits, and the address of that parcel in `mtval` (R303). That the SoC is asked, and
its error faults, even where a valid line of the I-cache holds the parcel is the model's choice, log entry 66. -/
def Obligations.FetchExceptions : Prop :=
  (∀ (s u : State) (l : List Byte) (r : Reject), s.Ready → s.fetch = (.bytes l, u) → decode l = .error r →
    ∃ t, step s = .next t.settle ∧ Traps u t ⟨2, 0⟩
      (match r with | .truncated => 0 | .illegalWord w => w | .illegalParcel p => p.setWidth 32)) ∧
  ∀ s : State, s.Ready →
    let checks (p : Word) (u : State) : Prop :=
      let x := p.toNat
      let own := iRegion s.cfg x
      let raises (c : BitVec 4) : Prop := ∃ t, step s = .next t.settle ∧ Traps u t ⟨1, c⟩ p
      if own = true ∧ inIccm s.cfg x = false then raises 2
      else if own = false ∧ windowsAllow s.cfg.instWindows x (x + 1) = false then raises 3
      else if own = false ∧ s.busAnswers .fetch x 2 = false then raises 9
      else if inIccm s.cfg x = true ∧ s.shared.mfdc.getLsbD 8 = false ∧ wordAddr x ∈ s.badWords then raises 1
      else True
    checks s.pc s ∧
    (s.fetchFault s.pc.toNat = none → (s.parcelAt s.pc).1.extractLsb' 0 2 = 3 → checks (s.pc + 2) (s.parcelAt s.pc).2)

/-- What ends every step (R44, R61, R276, 70 R890 with log entry 50 for the ticks of a step): of a hart it changes the counters and
internal timers, the buffer, the capture of a bus error, the pause count, the forced-halt timeout and the model's own marks, and nothing
else; of the machine no shared CSR, no I-cache line, no build, no Debug Module; memory only where a store that waits in one of the two
buffers writes it; and `nmi` of a hart whose stores the bus accepts takes no new error. `mcycle` goes on by the ticks of the step where it
counts in the state that the instruction or entry of the step has left (log entry 64): one less if an instruction has just written it (log
entry 53). -/
def Obligations.SettleFrame : Prop :=
  ∀ (s : State) (h : HartId),
    let x := s.hartAt h
    let y := s.settle.hartAt h
    y = { x with
      ctr := y.ctr, tim0 := y.tim0, tim1 := y.tim1, buffer := y.buffer, nmi := y.nmi
      power := { x.power with pauseCount := y.power.pauseCount }
      dbg := { x.dbg with timeout := y.dbg.timeout, haltWaits := y.dbg.haltWaits } } ∧
    s.settle.shared = s.shared ∧ s.settle.icache = s.icache ∧ s.settle.cfg = s.cfg ∧ s.settle.dm = s.dm ∧
    s.settle.badWords = s.badWords ∧ y.ctr.minstret = x.ctr.minstret ∧
    y.ctr.mcycle = (if x.countersOn = true ∧ x.ctr.inhibit.getLsbD 0 = false then
      x.ctr.mcycle + BitVec.ofNat 64 (if x.ctr.written = some .cycle then s.env.extraTicks else 1 + s.env.extraTicks)
      else x.ctr.mcycle) ∧
    (∀ a : Word, (∀ k : HartId, ∀ p ∈ (s.hartAt k).buffer, p.covers a = false) →
      memRead s.settle.mem a.toNat = memRead s.mem a.toNat) ∧
    (s.BufferAnswered h → y.nmi = { x.nmi with loadNow := y.nmi.loadNow })

/-! ## Traps, interrupts, Debug Mode -/

/-- The rank of the interrupts: external, correctable error, software, timer, internal timer 0, internal timer 1 (R661), each when its
bits of `mip` and `mie` are 1, while no internal-timer interrupt is held over. At a boundary without a pending NMI, with interrupts
enabled, the highest-ranked one is taken before the next instruction: `mepc` is the `pc`, `mtval` and `mscause` are 0, the handler's
address is that of `mtvec`, Direct or Vectored (R660, R670, R671). In a build with the fast interrupt redirect the external interrupt
captures the winning source and its priority, and goes to the address in the vector table, or to the NMI vector with the `mcause` of the
first reason why the table cannot be read (R672, R692, R693). That an interrupt is taken at the first such boundary is the spec's own
decision D8 for a deterministic model; that it writes 0 to `mtval` is its D5 (R652), that bit 0 of the table's word is ignored its D11, and
what the entry of an NMI writes its D10. -/
def Obligations.InterruptsAreTaken : Prop :=
  (∀ (s : State) (h : HartId), (s.hartAt h).tim0.hold = false → (s.hartAt h).tim1.hold = false →
    s.pendingInterrupt h =
      ([11, 30, 3, 7, 29, 28].find? fun n => (s.csrRead h .mip &&& s.csrRead h .mie).getLsbD n).map
        fun n => 0x80000000 ||| BitVec.ofNat 32 n) ∧
  ∀ (s : State) (c : Word), s.AtBoundary → s.hart.nmi.pending = false → s.hart.trap.mstatusMie = true →
    s.pendingInterrupt s.cur = some c →
    let taken (t : State) (code target : Word) : Prop := step s = .next t.settle ∧
      t.hart.trap = { s.hart.trap with
        mepc := s.pc &&& 0xFFFFFFFE, mcause := code, mscause := 0, mtval := 0, mstatusMpie := true, mstatusMie := false } ∧
      t.pc = target ∧ t.hart.reservation = none ∧ SameRegisters s t ∧ t.mem = s.mem ∧
      t.hart.ctr.minstret = s.hart.ctr.minstret
    (s.cfg.fastRedirect = false ∨ c ≠ 0x8000000B →
      ∃ t, taken t c ((s.hart.trap.mtvec &&& 0xFFFFFFFC) +
        (if s.hart.trap.mtvec.getLsbD 0 then BitVec.ofNat 32 (4 * (c.toNat % 2 ^ 31)) else 0)) ∧ t.hart.pic = s.hart.pic) ∧
    (s.cfg.fastRedirect = true → c = 0x8000000B →
      let best := s.pic.best s.cfg.dualThread s.cur
      let entry : Word := s.hart.pic.vecBase ++ BitVec.ofNat 8 best.2 ++ 0#2
      let x := entry.toNat
      let nmi : Word := s.cfg.nmiVec ++ 0#1
      ∃ t, t.hart.pic = { s.hart.pic with claimId := BitVec.ofNat 8 best.2, clidPri := best.1 } ∧
        (if s.cfg.dccmEnable = false ∨ x / 2 ^ 28 ≠ s.cfg.dccmRegion.toNat then taken t 0xF0001002 nmi
        else if ¬(inDccm s.cfg x = true ∧ inDccm s.cfg (x + 3) = true) then taken t 0xF0001001 nmi
        else if s.shared.mfdc.getLsbD 8 = false ∧ x ∈ s.badWords then taken t 0xF0001000 nmi
        else taken t 0x8000000B (memReadWord s.mem entry &&& 0xFFFFFFFE)))

/-- A pending NMI comes before every interrupt and is not masked: the pin's first, then the bus error's; the hart goes to the NMI
vector (R690, R692). What the entry writes to `mepc`, `mstatus`, `mscause` and `mtval`, and that the pin's comes first, are the spec's own
decisions D10 and D5 (R652); that a bus error's is taken at the first boundary is log entry 5. -/
def Obligations.NmisAreTaken : Prop :=
  ∀ s : State, s.AtBoundary → s.hart.nmi.pending = true →
    ∃ t, step s = .next t.settle ∧ t.pc = s.cfg.nmiVec ++ 0#1 ∧
      t.hart.trap = { s.hart.trap with
        mepc := s.pc &&& 0xFFFFFFFE, mscause := 0, mtval := 0,
        mcause := if s.hart.nmi.pin then 0 else if s.hart.nmi.bus = some .load then 0xF0000001 else 0xF0000000,
        mstatusMpie := s.hart.trap.mstatusMie, mstatusMie := false } ∧
      t.hart.nmi = (if s.hart.nmi.pin then { s.hart.nmi with pin := false } else { s.hart.nmi with bus := none }) ∧
      t.hart.reservation = none ∧ SameRegisters s t ∧ t.mem = s.mem

/-- A halt request of the debugger is honoured at the next boundary, before the instruction: Debug Mode with cause 3 and `dpc` the
`pc`; the stores that wait are performed first; registers and trap CSRs stay; `debug_mode_status` rises (R812, R832, R836). That the request
goes before a pending NMI or interrupt, which the spec does not rank against it, is the model's choice, log entry 68. -/
def Obligations.HaltRequestsEnterDebugMode : Prop :=
  ∀ s : State, configOk s.cfg = true → (s.cur = .t0 ∨ s.cfg.dualThread = true) → s.env.inputs = [] →
    s.heldInReset = false → s.hart.activity = .running → s.hart.dbg.stepping = false → s.dm.haltReq.get s.cur = true →
    s.hart.trig.armed = false → s.hart.inFlight = none → s.env.stall.get s.cur = ⟨false, false⟩ →
    ∃ t, step s = .next t.settle ∧ t.hart.activity = .dbHalt ∧ t.hart.debugModeStatus = true ∧ t.hart.dbg.cause = 3 ∧
      t.hart.dbg.dpc = s.pc &&& 0xFFFFFFFE ∧ t.hart.dbg.dbgHaltState = true ∧ t.hart.reservation = none ∧
      SameRegisters s t ∧ t.hart.trap = s.hart.trap ∧ t.hart.buffer = [] ∧ t.mem = (s.drainAll s.cur).mem

/-- A hart that the debugger alone holds in Debug Mode resumes at `dpc` on its request: running, or single-stepping if `dcsr.step` is 1; the
resume is acknowledged, and `debug_mode_status` stays up for the step only (R833 to R835). -/
def Obligations.ResumeLeavesDebugMode : Prop :=
  ∀ (s : State) (h : HartId), (s.hartAt h).activity = .dbHalt → (s.hartAt h).dbg.dbgHaltState = true →
    (s.hartAt h).dbg.mpcHaltState = false → (s.hartAt h).power.pmuHaltPending = false →
    let t := s.requestResume h
    (t.hartAt h).activity = .running ∧ (t.hartAt h).pc = (s.hartAt h).dbg.dpc ∧
      (t.hartAt h).dbg.stepping = (s.hartAt h).dbg.step ∧ (t.hartAt h).debugModeStatus = (s.hartAt h).dbg.step ∧
      (t.hartAt h).regs = (s.hartAt h).regs ∧
      (t.hartAt h).trap = (s.hartAt h).trap ∧ t.dm.resumeAck.get h = true ∧ t.hartAt h.other = s.hartAt h.other ∧
      t.mem = s.mem

/-- A hart halted in Debug Mode executes nothing: the step of that hart leaves its registers, `pc` and trap CSRs, whatever is pending
(R667, R813). -/
def Obligations.HaltedHartsDoNotExecute : Prop :=
  ∀ s t : State, s.hart.activity = .dbHalt → s.env.inputs = [] → step s = .next t →
    (t.hartAt s.cur).activity = .dbHalt ∧ (t.hartAt s.cur).regs = s.hart.regs ∧ (t.hartAt s.cur).pc = s.hart.pc ∧
      (t.hartAt s.cur).trap = s.hart.trap ∧ (t.hartAt s.cur).ctr.minstret = s.hart.ctr.minstret

/-- The access-register command on the halted hart that the debugger has selected: a read leaves `x[r]` in `data0` and changes nothing
outside the Debug Module, a write puts `data0` into `x[r]` and `x0` stays 0; on a hart that is not halted the command fails with
`cmderr` 4 and nothing outside the Debug Module changes (R240, R242, R244). While a command executes, another one is not started and
`cmderr` becomes 1 (R240). That a command is done at once where the environment does not slow the debugger down is the model's choice, log
entry 30; that a hart which only the MPC holds takes it as well is log entry 48. -/
def Obligations.DebuggerAccessesRegisters : Prop :=
  ∀ (s : State) (r : RegIdx), s.dm.dmactive = true → s.dm.cmderr = 0 →
    let h := if s.cfg.dualThread then s.dm.hartsel else .t0
    let command (w : Nat) : Except Refusal State := s.dmiWrite 0x17 (BitVec.ofNat 32 (w + r.toNat))
    (s.dm.running.isSome = true → command 0x00221000 = .ok { s with dm := { s.dm with cmderr := 1 } }) ∧
    (s.dm.running = none → s.env.slowDebug = false →
      (s.halted h = true →
        (∃ t, command 0x00221000 = .ok t ∧ t.dm.data0 = (s.hartAt h).reg r ∧ t.dm.cmderr = 0 ∧ { t with dm := s.dm } = s) ∧
        ∃ t, command 0x00231000 = .ok t ∧ t.dm.cmderr = 0 ∧
          (∀ q : RegIdx, (t.hartAt h).reg q = if q = 0 then 0 else if q = r then s.dm.data0 else (s.hartAt h).reg q) ∧
          { t with dm := s.dm } = s.mapHartAt h fun x => { x with regs := (t.hartAt h).regs }) ∧
      (s.halted h = false →
        ∃ t, command 0x00221000 = .ok t ∧ t.dm.cmderr = 4 ∧ { t with dm := s.dm } = s))

/-- The PIC's winner: a candidate of the highest priority, and among those the one with the lowest number; none, with priority 0, if
there is no candidate (R730, R731). -/
def Obligations.PicWinner : Prop :=
  ∀ (p : Pic) (dual : Bool) (h : HartId),
    (∀ (k : Nat) (x : Source), p.sources[k]? = some x → x.candidate dual h = true → x.pri ≤ (p.best dual h).1) ∧
    (∀ (k : Nat) (x : Source), p.sources[k]? = some x → x.candidate dual h = true → x.pri = (p.best dual h).1 →
      (p.best dual h).2 ≤ k + 1) ∧
    (if (p.best dual h).1 = 0 then (p.best dual h).2 = 0
      else ∃ (k : Nat) (x : Source), (p.best dual h).2 = k + 1 ∧ p.sources[k]? = some x ∧ x.candidate dual h = true ∧
        x.pri = (p.best dual h).1)

/-- An enabled internal timer counts 0, 1, … up to its bound and starts again: `k` cycles after 0 it holds `k` modulo the bound plus 1
(R781, R782). -/
def Obligations.TimerPeriod : Prop :=
  ∀ (t : Timer) (ok : Bool) (k : Nat), t.cnt = 0 → t.written = none →
    ((fun u => Timer.tick u true ok)^[k] t).cnt.toNat = k % (t.bound.toNat + 1)

/-! ## The whole machine -/

/-- The invariant holds after reset, in every build. -/
def Obligations.InvariantAtReset : Prop := ∀ cfg : Config, (State.resetWith cfg).Inv

/-- Every step keeps the invariant: the memory's canonical form, even `pc`, `mepc` and `dpc`, the hardwired bits, a legal `mrac`, legal
thresholds, some hart for the NMI pin, and hart 1 idle until it is started; and no step changes the build. -/
def Obligations.InvariantKept : Prop :=
  ∀ s t : State, s.Inv → step s = .next t → t.Inv ∧ t.cfg = s.cfg

/-- In a proper build, without a move of the environment, every step answers a next state: no data, no instruction word and no mode stops the
machine. What does stop it, a build or a move that the spec rules out, is log entry 52. -/
def Obligations.MachineNeverStops : Prop :=
  ∀ s : State, configOk s.cfg = true → s.env.inputs = [] → (s.cur = .t0 ∨ s.cfg.dualThread = true) → s.StepsOn

/-- An instruction changes nothing of the other hart but its reservation, once hart 1 has been started (40_rv32i.md R400, 42_a.md R462,
44_zicsr_zifencei_system.md R530). -/
def Obligations.HartsAreApart : Prop :=
  ∀ (i : Instr) (s t : State), s.shared.start1 = true → exec i s = .next t →
    t.hartAt s.cur.other = { s.hartAt s.cur.other with reservation := (t.hartAt s.cur.other).reservation } ∧
    ((t.hartAt s.cur.other).reservation = (s.hartAt s.cur.other).reservation ∨
      (t.hartAt s.cur.other).reservation = none)

/-- No instruction but the six CSR instructions changes `mtvec`, `mie`, `mscratch`, a shared CSR, a trigger, a timer, a counter selector or an
inhibit bit. -/
def Obligations.OnlyCsrInstructionsConfigure : Prop :=
  ∀ (i : Instr) (s t : State), exec i s = .next t →
    (∀ rd a x, i ≠ .csrrw rd a x ∧ i ≠ .csrrs rd a x ∧ i ≠ .csrrc rd a x ∧ i ≠ .csrrwi rd a x ∧ i ≠ .csrrsi rd a x ∧
      i ≠ .csrrci rd a x) →
    t.hart.trap.mtvec = s.hart.trap.mtvec ∧ t.hart.trap.mie = s.hart.trap.mie ∧
    t.hart.trap.mscratch = s.hart.trap.mscratch ∧ t.shared = s.shared ∧ t.hart.trig = s.hart.trig ∧
    (t.hart.tim0 = { s.hart.tim0 with hold := t.hart.tim0.hold }) ∧
    (t.hart.tim1 = { s.hart.tim1 with hold := t.hart.tim1.hold }) ∧
    (∀ n, t.hart.ctr.sel n = s.hart.ctr.sel n) ∧ t.hart.ctr.inhibit = s.hart.ctr.inhibit
end

