-- ==== Sys2Proof/Laws/Memory.lean ====
section
/-! SUPPORT. Memory: a read after a write, the canonical form, and accesses of several bytes. -/

namespace Sys2Proof.Machine

/-! ## One byte -/

/-- Dropping cells up to `a` changes no read above `a`. -/
theorem memRead_dropWhile (m : List Host.Cell) (a x : Nat) (h : a < x) :
    memRead (m.dropWhile fun c => c.1 ≤ a) x = memRead m x := by
  induction m with
  | nil => rfl
  | cons c m ih =>
    obtain ⟨k, b⟩ := c
    by_cases hk : k ≤ a
    · have h1 : k ≠ x := by omega
      have h2 : ¬ x < k := by omega
      simp [List.dropWhile, hk, memRead, h1, h2, ih]
    · simp [List.dropWhile, hk]

/-- After dropping the cells up to `a`, nothing up to `a` is listed. -/
theorem memRead_dropWhile_low (m : List Host.Cell) (a x : Nat) (h : x ≤ a) :
    memRead (m.dropWhile fun c => c.1 ≤ a) x = unlistedByte := by
  induction m with
  | nil => rfl
  | cons c m ih =>
    obtain ⟨k, b⟩ := c
    by_cases hk : k ≤ a
    · simp [List.dropWhile, hk, ih]
    · have h1 : k ≠ x := by omega
      have h2 : x < k := by omega
      simp [List.dropWhile, hk, memRead, h1, h2]

/-- A read of the byte just written gives it. -/
@[simp] theorem memRead_memWrite_same (m : List Host.Cell) (a : Nat) (b : Byte) : memRead (memWrite m a b) a = b := by
  induction m with
  | nil => by_cases hb : b = unlistedByte <;> simp [memWrite, hb, memRead]
  | cons c m ih =>
    obtain ⟨k, d⟩ := c
    by_cases hk : k < a
    · have h1 : k ≠ a := by omega
      have h2 : ¬ a < k := by omega
      simp [memWrite, hk, memRead, h1, h2, ih]
    · by_cases hb : b = unlistedByte
      · simp only [memWrite, hk, hb, if_true, if_false]
        exact memRead_dropWhile_low _ _ _ (Nat.le_refl a)
      · simp [memWrite, hk, hb, memRead]

/-- A read elsewhere gives what it gave before. -/
theorem memRead_memWrite_other (m : List Host.Cell) (a x : Nat) (b : Byte) (h : x ≠ a) :
    memRead (memWrite m a b) x = memRead m x := by
  induction m with
  | nil =>
    by_cases hb : b = unlistedByte
    · simp [memWrite, hb]
    · have h1 : a ≠ x := fun e => h e.symm
      simp [memWrite, hb, memRead, h1]
  | cons c m ih =>
    obtain ⟨k, d⟩ := c
    by_cases hk : k < a
    · simp [memWrite, hk, memRead, ih]
    · have key : memRead (((k, d) :: m).dropWhile fun c => c.1 ≤ a) x = memRead ((k, d) :: m) x := by
        by_cases hx : a < x
        · exact memRead_dropWhile _ _ _ hx
        · rw [memRead_dropWhile_low _ _ _ (by omega)]
          have h1 : k ≠ x := by omega
          have h2 : x < k := by omega
          simp [memRead, h1, h2]
      by_cases hb : b = unlistedByte
      · simp only [memWrite, hk, hb, if_true, if_false]
        exact key
      · simp only [memWrite, hk, hb, if_false, memRead]
        have h1 : a ≠ x := fun e => h e.symm
        rw [if_neg h1]
        by_cases hx : x < a
        · have h2 : k ≠ x := by omega
          have h3 : x < k := by omega
          rw [if_pos hx, if_neg h2, if_pos h3]
        · rw [if_neg hx, key]
          rfl

/-! ## The canonical form -/

/-- The first address of a list of cells is above `a`. -/
def startsAbove (a : Nat) : List Host.Cell → Bool
  | [] => true
  | (k, _) :: _ => decide (a < k)

/-- A cell before a canonical list that starts above it. -/
theorem memWf_cons (k : Nat) (b : Byte) (m : List Host.Cell) :
    memWf ((k, b) :: m) = (startsAbove k m && (b != unlistedByte) && memWf m) := by
  cases m with
  | nil => simp [memWf, startsAbove]
  | cons c m => rfl

/-- What `memWf` says of the rest of a list. -/
theorem memWf_tail {c : Host.Cell} {m : List Host.Cell} (h : memWf (c :: m) = true) : memWf m = true := by
  obtain ⟨k, b⟩ := c
  rw [memWf_cons] at h
  simp only [Bool.and_eq_true] at h
  exact h.2

/-- In a canonical list at most one cell is at `a` or below once the smaller ones are passed. -/
theorem startsAbove_dropWhile (m : List Host.Cell) (a : Nat) :
    startsAbove a (m.dropWhile fun c => c.1 ≤ a) = true := by
  induction m with
  | nil => rfl
  | cons c m ih =>
    obtain ⟨k, b⟩ := c
    by_cases hk : k ≤ a
    · simp [List.dropWhile, hk, ih]
    · simp only [List.dropWhile, hk, decide_false, startsAbove, decide_eq_true_eq]
      omega

/-- A suffix of a canonical list is canonical. -/
theorem memWf_dropWhile (m : List Host.Cell) (a : Nat) (h : memWf m = true) :
    memWf (m.dropWhile fun c => c.1 ≤ a) = true := by
  induction m with
  | nil => rfl
  | cons c m ih =>
    by_cases hk : c.1 ≤ a
    · simp only [List.dropWhile, hk, decide_true]
      exact ih (memWf_tail h)
    · simp only [List.dropWhile, hk, decide_false]
      exact h

/-- Writing keeps what lies above a bound above it. -/
theorem startsAbove_memWrite (m : List Host.Cell) (k a : Nat) (b : Byte) (hm : startsAbove k m = true)
    (hw : memWf m = true) (ha : k < a) : startsAbove k (memWrite m a b) = true := by
  cases m with
  | nil => by_cases hb : b = unlistedByte <;> simp [memWrite, hb, startsAbove, ha]
  | cons c m =>
    obtain ⟨j, d⟩ := c
    by_cases hj : j < a
    · simpa [memWrite, hj, startsAbove] using hm
    · by_cases hb : b = unlistedByte
      · simp only [memWrite, hj, hb, if_true, if_false]
        have := startsAbove_dropWhile ((j, d) :: m) a
        cases hd : ((j, d) :: m).dropWhile fun c => c.1 ≤ a with
        | nil => rfl
        | cons e r =>
          rw [hd] at this
          simp only [startsAbove, decide_eq_true_eq] at this ⊢
          omega
      · simp [memWrite, hj, hb, startsAbove, ha]

/-- A write keeps the canonical form. -/
theorem memWf_memWrite (m : List Host.Cell) (a : Nat) (b : Byte) (h : memWf m = true) :
    memWf (memWrite m a b) = true := by
  induction m with
  | nil => by_cases hb : b = unlistedByte <;> simp [memWrite, hb, memWf]
  | cons c m ih =>
    obtain ⟨k, d⟩ := c
    have ht := memWf_tail h
    rw [memWf_cons] at h
    simp only [Bool.and_eq_true] at h
    by_cases hk : k < a
    · simp only [memWrite, hk, if_true]
      rw [memWf_cons]
      simp only [Bool.and_eq_true]
      exact ⟨⟨startsAbove_memWrite m k a b h.1.1 ht hk, h.1.2⟩, ih ht⟩
    · have hd : memWf (((k, d) :: m).dropWhile fun c => c.1 ≤ a) = true := by
        apply memWf_dropWhile
        rw [memWf_cons]
        simp [h]
      by_cases hb : b = unlistedByte
      · simp only [memWrite, hk, hb, if_true, if_false]
        exact hd
      · simp only [memWrite, hk, hb, if_false]
        rw [memWf_cons]
        simp only [Bool.and_eq_true]
        exact ⟨⟨startsAbove_dropWhile _ _, by simpa using hb⟩, hd⟩

/-! ## Several bytes -/

/-- A write of several bytes keeps the canonical form. -/
theorem memWf_memWriteN (m : List Host.Cell) (a v : Word) (n : Nat) (h : memWf m = true) :
    memWf (memWriteN m a v n) = true := by
  induction n with
  | zero => exact h
  | succ n ih => exact memWf_memWrite _ _ _ ih

/-- A byte outside the bytes written reads as before. -/
theorem memRead_memWriteN_outside (m : List Host.Cell) (a v : Word) (n x : Nat)
    (h : ∀ i, i < n → x ≠ addrAt a i) : memRead (memWriteN m a v n) x = memRead m x := by
  induction n with
  | zero => rfl
  | succ n ih =>
    simp only [memWriteN]
    rw [memRead_memWrite_other _ _ _ _ (h n (by omega))]
    exact ih fun i hi => h i (by omega)

/-- Different offsets below 2^32 are different addresses. -/
theorem addrAt_injective (a : Word) {i j : Nat} (hi : i < 2 ^ 32) (hj : j < 2 ^ 32) (h : addrAt a i = addrAt a j) :
    i = j := by
  unfold addrAt at h
  have h1 := BitVec.eq_of_toNat_eq h
  have h2 : BitVec.ofNat 32 i = BitVec.ofNat 32 j := by simpa using h1
  have h3 := congrArg BitVec.toNat h2
  simp only [BitVec.toNat_ofNat] at h3
  rwa [Nat.mod_eq_of_lt hi, Nat.mod_eq_of_lt hj] at h3

/-- Each byte written reads as the byte of the value. -/
theorem memRead_memWriteN_inside (m : List Host.Cell) (a v : Word) (n i : Nat) (hi : i < n) (hn : n ≤ 2 ^ 32) :
    memRead (memWriteN m a v n) (addrAt a i) = byteOf v i := by
  induction n with
  | zero => omega
  | succ n ih =>
    simp only [memWriteN]
    by_cases h : i = n
    · rw [h]
      exact memRead_memWrite_same _ _ _
    · have hne : addrAt a i ≠ addrAt a n := fun e => h (addrAt_injective a (by omega) (by omega) e)
      rw [memRead_memWrite_other _ _ _ _ hne]
      exact ih (by omega) (by omega)

/-- Two memories that read the same at the `n` bytes from `a` read the same number there. -/
theorem memReadN_congr (m m' : List Host.Cell) (a : Word) (n : Nat)
    (h : ∀ i, i < n → memRead m' (addrAt a i) = memRead m (addrAt a i)) : memReadN m' a n = memReadN m a n := by
  induction n with
  | zero => rfl
  | succ n ih =>
    simp only [memReadN]
    rw [ih fun i hi => h i (by omega), h n (by omega)]

/-- A number of `n` bytes is below 2^(8n). -/
theorem memReadN_lt (m : List Host.Cell) (a : Word) (n : Nat) : memReadN m a n < 2 ^ (8 * n) := by
  induction n with
  | zero => simp [memReadN]
  | succ n ih =>
    simp only [memReadN]
    have hb : (memRead m (addrAt a n)).toNat < 2 ^ 8 := (memRead m (addrAt a n)).isLt
    have h2 : (2 : Nat) ^ (8 * (n + 1)) = 2 ^ (8 * n) * 2 ^ 8 := by rw [← pow_add]; congr 1
    rw [h2]
    nlinarith [Nat.two_pow_pos (8 * n)]

/-- The bytes just written, read back as a number: the value's low bytes. -/
theorem memReadN_memWriteN (m : List Host.Cell) (a v : Word) (n : Nat) (hn : n ≤ 2 ^ 32) :
    memReadN (memWriteN m a v n) a n = v.toNat % 2 ^ (8 * n) := by
  have key : ∀ k, k ≤ n → memReadN (memWriteN m a v n) a k = v.toNat % 2 ^ (8 * k) := by
    intro k hk
    induction k with
    | zero => simp [memReadN, Nat.mod_one]
    | succ k ih =>
      simp only [memReadN]
      rw [ih (by omega), memRead_memWriteN_inside m a v n k (by omega) hn]
      have hb : (byteOf v k).toNat = v.toNat / 2 ^ (8 * k) % 2 ^ 8 := by
        simp [byteOf, BitVec.extractLsb'_toNat, Nat.shiftRight_eq_div_pow]
      have h2 : (2 : Nat) ^ (8 * (k + 1)) = 2 ^ (8 * k) * 2 ^ 8 := by rw [← pow_add]; congr 1
      rw [hb, h2, Nat.mod_mul]
      ring
  exact key n (Nat.le_refl n)

/-- A word just written reads back. -/
theorem memReadWord_memWriteN (m : List Host.Cell) (a v : Word) : memReadWord (memWriteN m a v 4) a = v := by
  unfold memReadWord
  rw [memReadN_memWriteN m a v 4 (by norm_num)]
  apply BitVec.eq_of_toNat_eq
  have := v.isLt
  simp only [BitVec.toNat_ofNat]
  omega

end Sys2Proof.Machine
end

