-- ==== Sys2Proof/Laws/State.lean ====
section
/-! SUPPORT. What each update of the state leaves alone: one lemma per field and update. -/

namespace Sys2Proof.Machine

/-! ## Pairs -/

@[simp] theorem Pair.get_set_same {α : Type} (p : Pair α) (h : HartId) (x : α) : (p.set h x).get h = x := by
  cases h <;> rfl

theorem Pair.get_set_other {α : Type} (p : Pair α) (h : HartId) (x : α) : (p.set h x).get h.other = p.get h.other := by
  cases h <;> rfl

@[simp] theorem Pair.set_get {α : Type} (p : Pair α) (h : HartId) : p.set h (p.get h) = p := by
  cases h <;> rfl

@[simp] theorem Pair.set_set {α : Type} (p : Pair α) (h : HartId) (x y : α) : (p.set h x).set h y = p.set h y := by
  cases h <;> rfl

theorem HartId.eq_or_other (a b : HartId) : a = b ∨ a = b.other := by
  cases a <;> cases b <;> simp [HartId.other]

@[simp] theorem HartId.other_other (h : HartId) : h.other.other = h := by cases h <;> rfl

/-! ## The state with a hart changed -/

@[simp] theorem State.hartAt_mapHartAt_same (s : State) (h : HartId) (f : Hart → Hart) :
    (s.mapHartAt h f).hartAt h = f (s.hartAt h) := by cases h <;> rfl

@[simp] theorem State.hartAt_mapHartAt_other (s : State) (h : HartId) (f : Hart → Hart) :
    (s.mapHartAt h.other f).hartAt h = s.hartAt h := by cases h <;> rfl

@[simp] theorem State.hart_mapHart (s : State) (f : Hart → Hart) : (s.mapHart f).hart = f s.hart := by
  rcases s with ⟨_, c, _, _⟩
  cases c <;> rfl

@[simp] theorem State.mapHartAt_mapHartAt (s : State) (h : HartId) (f g : Hart → Hart) :
    (s.mapHartAt h f).mapHartAt h g = s.mapHartAt h fun x => g (f x) := by cases h <;> rfl

@[simp] theorem State.mapHart_mapHart (s : State) (f g : Hart → Hart) :
    (s.mapHart f).mapHart g = s.mapHart fun x => g (f x) := by
  rcases s with ⟨_, c, _, _⟩
  cases c <;> rfl

/-- The executing hart, seen as one of the two. -/
theorem State.hart_eq (s : State) : s.hart = s.harts.get s.cur := rfl

@[simp] theorem State.mapHartAt_cfg (s : State) (h : HartId) (f : Hart → Hart) : (s.mapHartAt h f).cfg = s.cfg := rfl

@[simp] theorem State.mapHartAt_cur (s : State) (h : HartId) (f : Hart → Hart) : (s.mapHartAt h f).cur = s.cur := rfl

@[simp] theorem State.mapHartAt_inReset (s : State) (h : HartId) (f : Hart → Hart) : (s.mapHartAt h f).inReset = s.inReset := rfl

@[simp] theorem State.mapHartAt_shared (s : State) (h : HartId) (f : Hart → Hart) : (s.mapHartAt h f).shared = s.shared := rfl

@[simp] theorem State.mapHartAt_pic (s : State) (h : HartId) (f : Hart → Hart) : (s.mapHartAt h f).pic = s.pic := rfl

@[simp] theorem State.mapHartAt_icache (s : State) (h : HartId) (f : Hart → Hart) : (s.mapHartAt h f).icache = s.icache := rfl

@[simp] theorem State.mapHartAt_dm (s : State) (h : HartId) (f : Hart → Hart) : (s.mapHartAt h f).dm = s.dm := rfl

@[simp] theorem State.mapHartAt_mem (s : State) (h : HartId) (f : Hart → Hart) : (s.mapHartAt h f).mem = s.mem := rfl

@[simp] theorem State.mapHartAt_badWords (s : State) (h : HartId) (f : Hart → Hart) : (s.mapHartAt h f).badWords = s.badWords := rfl

@[simp] theorem State.mapHartAt_pins (s : State) (h : HartId) (f : Hart → Hart) : (s.mapHartAt h f).pins = s.pins := rfl

@[simp] theorem State.mapHartAt_nmiPin (s : State) (h : HartId) (f : Hart → Hart) : (s.mapHartAt h f).nmiPin = s.nmiPin := rfl

@[simp] theorem State.mapHartAt_dma (s : State) (h : HartId) (f : Hart → Hart) : (s.mapHartAt h f).dma = s.dma := rfl

@[simp] theorem State.mapHartAt_env (s : State) (h : HartId) (f : Hart → Hart) : (s.mapHartAt h f).env = s.env := rfl

@[simp] theorem State.mapHart_cfg (s : State) (f : Hart → Hart) : (s.mapHart f).cfg = s.cfg := rfl

@[simp] theorem State.mapHart_cur (s : State) (f : Hart → Hart) : (s.mapHart f).cur = s.cur := rfl

@[simp] theorem State.mapHart_inReset (s : State) (f : Hart → Hart) : (s.mapHart f).inReset = s.inReset := rfl

@[simp] theorem State.mapHart_shared (s : State) (f : Hart → Hart) : (s.mapHart f).shared = s.shared := rfl

@[simp] theorem State.mapHart_pic (s : State) (f : Hart → Hart) : (s.mapHart f).pic = s.pic := rfl

@[simp] theorem State.mapHart_icache (s : State) (f : Hart → Hart) : (s.mapHart f).icache = s.icache := rfl

@[simp] theorem State.mapHart_dm (s : State) (f : Hart → Hart) : (s.mapHart f).dm = s.dm := rfl

@[simp] theorem State.mapHart_mem (s : State) (f : Hart → Hart) : (s.mapHart f).mem = s.mem := rfl

@[simp] theorem State.mapHart_badWords (s : State) (f : Hart → Hart) : (s.mapHart f).badWords = s.badWords := rfl

@[simp] theorem State.mapHart_pins (s : State) (f : Hart → Hart) : (s.mapHart f).pins = s.pins := rfl

@[simp] theorem State.mapHart_nmiPin (s : State) (f : Hart → Hart) : (s.mapHart f).nmiPin = s.nmiPin := rfl

@[simp] theorem State.mapHart_dma (s : State) (f : Hart → Hart) : (s.mapHart f).dma = s.dma := rfl

@[simp] theorem State.mapHart_env (s : State) (f : Hart → Hart) : (s.mapHart f).env = s.env := rfl

/-! ## Harts -/

@[simp] theorem Hart.setReg_pc (h : Hart) (i : RegIdx) (v : Word) : (h.setReg i v).pc = h.pc := by unfold Hart.setReg; split <;> rfl

@[simp] theorem Hart.setReg_activity (h : Hart) (i : RegIdx) (v : Word) : (h.setReg i v).activity = h.activity := by unfold Hart.setReg; split <;> rfl

@[simp] theorem Hart.setReg_trap (h : Hart) (i : RegIdx) (v : Word) : (h.setReg i v).trap = h.trap := by unfold Hart.setReg; split <;> rfl

@[simp] theorem Hart.setReg_ctr (h : Hart) (i : RegIdx) (v : Word) : (h.setReg i v).ctr = h.ctr := by unfold Hart.setReg; split <;> rfl

@[simp] theorem Hart.setReg_tim0 (h : Hart) (i : RegIdx) (v : Word) : (h.setReg i v).tim0 = h.tim0 := by unfold Hart.setReg; split <;> rfl

@[simp] theorem Hart.setReg_tim1 (h : Hart) (i : RegIdx) (v : Word) : (h.setReg i v).tim1 = h.tim1 := by unfold Hart.setReg; split <;> rfl

@[simp] theorem Hart.setReg_pic (h : Hart) (i : RegIdx) (v : Word) : (h.setReg i v).pic = h.pic := by unfold Hart.setReg; split <;> rfl

@[simp] theorem Hart.setReg_trig (h : Hart) (i : RegIdx) (v : Word) : (h.setReg i v).trig = h.trig := by unfold Hart.setReg; split <;> rfl

@[simp] theorem Hart.setReg_dbg (h : Hart) (i : RegIdx) (v : Word) : (h.setReg i v).dbg = h.dbg := by unfold Hart.setReg; split <;> rfl

@[simp] theorem Hart.setReg_diag (h : Hart) (i : RegIdx) (v : Word) : (h.setReg i v).diag = h.diag := by unfold Hart.setReg; split <;> rfl

@[simp] theorem Hart.setReg_reservation (h : Hart) (i : RegIdx) (v : Word) : (h.setReg i v).reservation = h.reservation := by unfold Hart.setReg; split <;> rfl

@[simp] theorem Hart.setReg_buffer (h : Hart) (i : RegIdx) (v : Word) : (h.setReg i v).buffer = h.buffer := by unfold Hart.setReg; split <;> rfl

@[simp] theorem Hart.setReg_inFlight (h : Hart) (i : RegIdx) (v : Word) : (h.setReg i v).inFlight = h.inFlight := by unfold Hart.setReg; split <;> rfl

@[simp] theorem Hart.setReg_nmi (h : Hart) (i : RegIdx) (v : Word) : (h.setReg i v).nmi = h.nmi := by unfold Hart.setReg; split <;> rfl

@[simp] theorem Hart.setReg_power (h : Hart) (i : RegIdx) (v : Word) : (h.setReg i v).power = h.power := by unfold Hart.setReg; split <;> rfl

@[simp] theorem Hart.setReg_seen (h : Hart) (i : RegIdx) (v : Word) : (h.setReg i v).seen = h.seen := by unfold Hart.setReg; split <;> rfl

@[simp] theorem Hart.setReg_starting (h : Hart) (i : RegIdx) (v : Word) : (h.setReg i v).starting = h.starting := by unfold Hart.setReg; split <;> rfl

@[simp] theorem Hart.retireTo_regs (h : Hart) (a : Word) (n : Nat) (e : List Nat) : (h.retireTo a n e).regs = h.regs := rfl

@[simp] theorem Hart.retireTo_activity (h : Hart) (a : Word) (n : Nat) (e : List Nat) : (h.retireTo a n e).activity = h.activity := rfl

@[simp] theorem Hart.retireTo_trap (h : Hart) (a : Word) (n : Nat) (e : List Nat) : (h.retireTo a n e).trap = h.trap := rfl

@[simp] theorem Hart.retireTo_tim0 (h : Hart) (a : Word) (n : Nat) (e : List Nat) : (h.retireTo a n e).tim0 = h.tim0 := rfl

@[simp] theorem Hart.retireTo_tim1 (h : Hart) (a : Word) (n : Nat) (e : List Nat) : (h.retireTo a n e).tim1 = h.tim1 := rfl

@[simp] theorem Hart.retireTo_pic (h : Hart) (a : Word) (n : Nat) (e : List Nat) : (h.retireTo a n e).pic = h.pic := rfl

@[simp] theorem Hart.retireTo_trig (h : Hart) (a : Word) (n : Nat) (e : List Nat) : (h.retireTo a n e).trig = h.trig := rfl

@[simp] theorem Hart.retireTo_dbg (h : Hart) (a : Word) (n : Nat) (e : List Nat) : (h.retireTo a n e).dbg = h.dbg := rfl

@[simp] theorem Hart.retireTo_diag (h : Hart) (a : Word) (n : Nat) (e : List Nat) : (h.retireTo a n e).diag = h.diag := rfl

@[simp] theorem Hart.retireTo_reservation (h : Hart) (a : Word) (n : Nat) (e : List Nat) : (h.retireTo a n e).reservation = h.reservation := rfl

@[simp] theorem Hart.retireTo_buffer (h : Hart) (a : Word) (n : Nat) (e : List Nat) : (h.retireTo a n e).buffer = h.buffer := rfl

@[simp] theorem Hart.retireTo_inFlight (h : Hart) (a : Word) (n : Nat) (e : List Nat) : (h.retireTo a n e).inFlight = h.inFlight := rfl

@[simp] theorem Hart.retireTo_nmi (h : Hart) (a : Word) (n : Nat) (e : List Nat) : (h.retireTo a n e).nmi = h.nmi := rfl

@[simp] theorem Hart.retireTo_power (h : Hart) (a : Word) (n : Nat) (e : List Nat) : (h.retireTo a n e).power = h.power := rfl

@[simp] theorem Hart.retireTo_seen (h : Hart) (a : Word) (n : Nat) (e : List Nat) : (h.retireTo a n e).seen = h.seen := rfl

@[simp] theorem Hart.retireTo_starting (h : Hart) (a : Word) (n : Nat) (e : List Nat) : (h.retireTo a n e).starting = h.starting := rfl

@[simp] theorem Hart.retire_regs (h : Hart) (n : Nat) (e : List Nat) : (h.retire n e).regs = h.regs := rfl

@[simp] theorem Hart.retire_activity (h : Hart) (n : Nat) (e : List Nat) : (h.retire n e).activity = h.activity := rfl

@[simp] theorem Hart.retire_trap (h : Hart) (n : Nat) (e : List Nat) : (h.retire n e).trap = h.trap := rfl

@[simp] theorem Hart.retire_tim0 (h : Hart) (n : Nat) (e : List Nat) : (h.retire n e).tim0 = h.tim0 := rfl

@[simp] theorem Hart.retire_tim1 (h : Hart) (n : Nat) (e : List Nat) : (h.retire n e).tim1 = h.tim1 := rfl

@[simp] theorem Hart.retire_pic (h : Hart) (n : Nat) (e : List Nat) : (h.retire n e).pic = h.pic := rfl

@[simp] theorem Hart.retire_trig (h : Hart) (n : Nat) (e : List Nat) : (h.retire n e).trig = h.trig := rfl

@[simp] theorem Hart.retire_dbg (h : Hart) (n : Nat) (e : List Nat) : (h.retire n e).dbg = h.dbg := rfl

@[simp] theorem Hart.retire_diag (h : Hart) (n : Nat) (e : List Nat) : (h.retire n e).diag = h.diag := rfl

@[simp] theorem Hart.retire_reservation (h : Hart) (n : Nat) (e : List Nat) : (h.retire n e).reservation = h.reservation := rfl

@[simp] theorem Hart.retire_buffer (h : Hart) (n : Nat) (e : List Nat) : (h.retire n e).buffer = h.buffer := rfl

@[simp] theorem Hart.retire_inFlight (h : Hart) (n : Nat) (e : List Nat) : (h.retire n e).inFlight = h.inFlight := rfl

@[simp] theorem Hart.retire_nmi (h : Hart) (n : Nat) (e : List Nat) : (h.retire n e).nmi = h.nmi := rfl

@[simp] theorem Hart.retire_power (h : Hart) (n : Nat) (e : List Nat) : (h.retire n e).power = h.power := rfl

@[simp] theorem Hart.retire_seen (h : Hart) (n : Nat) (e : List Nat) : (h.retire n e).seen = h.seen := rfl

@[simp] theorem Hart.retire_starting (h : Hart) (n : Nat) (e : List Nat) : (h.retire n e).starting = h.starting := rfl

@[simp] theorem Hart.count_regs (h : Hart) (e : List Nat) : (h.count e).regs = h.regs := by unfold Hart.count; split <;> rfl

@[simp] theorem Hart.count_pc (h : Hart) (e : List Nat) : (h.count e).pc = h.pc := by unfold Hart.count; split <;> rfl

@[simp] theorem Hart.count_activity (h : Hart) (e : List Nat) : (h.count e).activity = h.activity := by unfold Hart.count; split <;> rfl

@[simp] theorem Hart.count_trap (h : Hart) (e : List Nat) : (h.count e).trap = h.trap := by unfold Hart.count; split <;> rfl

@[simp] theorem Hart.count_tim0 (h : Hart) (e : List Nat) : (h.count e).tim0 = h.tim0 := by unfold Hart.count; split <;> rfl

@[simp] theorem Hart.count_tim1 (h : Hart) (e : List Nat) : (h.count e).tim1 = h.tim1 := by unfold Hart.count; split <;> rfl

@[simp] theorem Hart.count_pic (h : Hart) (e : List Nat) : (h.count e).pic = h.pic := by unfold Hart.count; split <;> rfl

@[simp] theorem Hart.count_trig (h : Hart) (e : List Nat) : (h.count e).trig = h.trig := by unfold Hart.count; split <;> rfl

@[simp] theorem Hart.count_dbg (h : Hart) (e : List Nat) : (h.count e).dbg = h.dbg := by unfold Hart.count; split <;> rfl

@[simp] theorem Hart.count_diag (h : Hart) (e : List Nat) : (h.count e).diag = h.diag := by unfold Hart.count; split <;> rfl

@[simp] theorem Hart.count_reservation (h : Hart) (e : List Nat) : (h.count e).reservation = h.reservation := by unfold Hart.count; split <;> rfl

@[simp] theorem Hart.count_buffer (h : Hart) (e : List Nat) : (h.count e).buffer = h.buffer := by unfold Hart.count; split <;> rfl

@[simp] theorem Hart.count_inFlight (h : Hart) (e : List Nat) : (h.count e).inFlight = h.inFlight := by unfold Hart.count; split <;> rfl

@[simp] theorem Hart.count_nmi (h : Hart) (e : List Nat) : (h.count e).nmi = h.nmi := by unfold Hart.count; split <;> rfl

@[simp] theorem Hart.count_power (h : Hart) (e : List Nat) : (h.count e).power = h.power := by unfold Hart.count; split <;> rfl

@[simp] theorem Hart.count_seen (h : Hart) (e : List Nat) : (h.count e).seen = h.seen := by unfold Hart.count; split <;> rfl

@[simp] theorem Hart.count_starting (h : Hart) (e : List Nat) : (h.count e).starting = h.starting := by unfold Hart.count; split <;> rfl

@[simp] theorem Hart.enterTrap_regs (h : Hart) (a : Word) (c : Cause) (v t : Word) : (h.enterTrap a c v t).regs = h.regs := rfl

@[simp] theorem Hart.enterTrap_activity (h : Hart) (a : Word) (c : Cause) (v t : Word) : (h.enterTrap a c v t).activity = h.activity := rfl

@[simp] theorem Hart.enterTrap_ctr (h : Hart) (a : Word) (c : Cause) (v t : Word) : (h.enterTrap a c v t).ctr = h.ctr := rfl

@[simp] theorem Hart.enterTrap_tim0 (h : Hart) (a : Word) (c : Cause) (v t : Word) : (h.enterTrap a c v t).tim0 = h.tim0 := rfl

@[simp] theorem Hart.enterTrap_tim1 (h : Hart) (a : Word) (c : Cause) (v t : Word) : (h.enterTrap a c v t).tim1 = h.tim1 := rfl

@[simp] theorem Hart.enterTrap_pic (h : Hart) (a : Word) (c : Cause) (v t : Word) : (h.enterTrap a c v t).pic = h.pic := rfl

@[simp] theorem Hart.enterTrap_trig (h : Hart) (a : Word) (c : Cause) (v t : Word) : (h.enterTrap a c v t).trig = h.trig := rfl

@[simp] theorem Hart.enterTrap_dbg (h : Hart) (a : Word) (c : Cause) (v t : Word) : (h.enterTrap a c v t).dbg = h.dbg := rfl

@[simp] theorem Hart.enterTrap_diag (h : Hart) (a : Word) (c : Cause) (v t : Word) : (h.enterTrap a c v t).diag = h.diag := rfl

@[simp] theorem Hart.enterTrap_buffer (h : Hart) (a : Word) (c : Cause) (v t : Word) : (h.enterTrap a c v t).buffer = h.buffer := rfl

@[simp] theorem Hart.enterTrap_inFlight (h : Hart) (a : Word) (c : Cause) (v t : Word) : (h.enterTrap a c v t).inFlight = h.inFlight := rfl

@[simp] theorem Hart.enterTrap_nmi (h : Hart) (a : Word) (c : Cause) (v t : Word) : (h.enterTrap a c v t).nmi = h.nmi := rfl

@[simp] theorem Hart.enterTrap_power (h : Hart) (a : Word) (c : Cause) (v t : Word) : (h.enterTrap a c v t).power = h.power := rfl

@[simp] theorem Hart.enterTrap_seen (h : Hart) (a : Word) (c : Cause) (v t : Word) : (h.enterTrap a c v t).seen = h.seen := rfl

@[simp] theorem Hart.enterTrap_starting (h : Hart) (a : Word) (c : Cause) (v t : Word) : (h.enterTrap a c v t).starting = h.starting := rfl

@[simp] theorem Hart.mret_regs (h : Hart)  : (h.mret).regs = h.regs := rfl

@[simp] theorem Hart.mret_activity (h : Hart)  : (h.mret).activity = h.activity := rfl

@[simp] theorem Hart.mret_ctr (h : Hart)  : (h.mret).ctr = h.ctr := rfl

@[simp] theorem Hart.mret_tim0 (h : Hart)  : (h.mret).tim0 = h.tim0 := rfl

@[simp] theorem Hart.mret_tim1 (h : Hart)  : (h.mret).tim1 = h.tim1 := rfl

@[simp] theorem Hart.mret_pic (h : Hart)  : (h.mret).pic = h.pic := rfl

@[simp] theorem Hart.mret_trig (h : Hart)  : (h.mret).trig = h.trig := rfl

@[simp] theorem Hart.mret_dbg (h : Hart)  : (h.mret).dbg = h.dbg := rfl

@[simp] theorem Hart.mret_diag (h : Hart)  : (h.mret).diag = h.diag := rfl

@[simp] theorem Hart.mret_buffer (h : Hart)  : (h.mret).buffer = h.buffer := rfl

@[simp] theorem Hart.mret_inFlight (h : Hart)  : (h.mret).inFlight = h.inFlight := rfl

@[simp] theorem Hart.mret_nmi (h : Hart)  : (h.mret).nmi = h.nmi := rfl

@[simp] theorem Hart.mret_power (h : Hart)  : (h.mret).power = h.power := rfl

@[simp] theorem Hart.mret_seen (h : Hart)  : (h.mret).seen = h.seen := rfl

@[simp] theorem Hart.mret_starting (h : Hart)  : (h.mret).starting = h.starting := rfl

@[simp] theorem Hart.mret_reservation (h : Hart) : (h.mret).reservation = h.reservation := rfl

@[simp] theorem Hart.mret_pc (h : Hart) : (h.mret).pc = h.trap.mepc &&& 0xFFFFFFFE := rfl

@[simp] theorem Hart.mret_trap (h : Hart) :
    (h.mret).trap = { h.trap with mstatusMie := h.trap.mstatusMpie, mstatusMpie := true } := rfl

@[simp] theorem Hart.clearReservation_reservation (h : Hart) : h.clearReservation.reservation = none := rfl

@[simp] theorem Hart.clearReservation_regs (h : Hart) : h.clearReservation.regs = h.regs := rfl

@[simp] theorem Hart.clearReservation_pc (h : Hart) : h.clearReservation.pc = h.pc := rfl

@[simp] theorem Hart.clearReservation_activity (h : Hart) : h.clearReservation.activity = h.activity := rfl

@[simp] theorem Hart.clearReservation_trap (h : Hart) : h.clearReservation.trap = h.trap := rfl

@[simp] theorem Hart.clearReservation_ctr (h : Hart) : h.clearReservation.ctr = h.ctr := rfl

@[simp] theorem Hart.clearReservation_tim0 (h : Hart) : h.clearReservation.tim0 = h.tim0 := rfl

@[simp] theorem Hart.clearReservation_tim1 (h : Hart) : h.clearReservation.tim1 = h.tim1 := rfl

@[simp] theorem Hart.clearReservation_pic (h : Hart) : h.clearReservation.pic = h.pic := rfl

@[simp] theorem Hart.clearReservation_trig (h : Hart) : h.clearReservation.trig = h.trig := rfl

@[simp] theorem Hart.clearReservation_dbg (h : Hart) : h.clearReservation.dbg = h.dbg := rfl

@[simp] theorem Hart.clearReservation_diag (h : Hart) : h.clearReservation.diag = h.diag := rfl

@[simp] theorem Hart.clearReservation_buffer (h : Hart) : h.clearReservation.buffer = h.buffer := rfl

@[simp] theorem Hart.clearReservation_inFlight (h : Hart) : h.clearReservation.inFlight = h.inFlight := rfl

@[simp] theorem Hart.clearReservation_nmi (h : Hart) : h.clearReservation.nmi = h.nmi := rfl

@[simp] theorem Hart.clearReservation_power (h : Hart) : h.clearReservation.power = h.power := rfl

@[simp] theorem Hart.clearReservation_seen (h : Hart) : h.clearReservation.seen = h.seen := rfl

@[simp] theorem Hart.clearReservation_starting (h : Hart) : h.clearReservation.starting = h.starting := rfl

@[simp] theorem Hart.enterDebug_regs (h : Hart) (c : Config) (k : BitVec 3) (a : Word) (d : Bool) : (h.enterDebug c k a d).regs = h.regs := rfl

@[simp] theorem Hart.enterDebug_pc (h : Hart) (c : Config) (k : BitVec 3) (a : Word) (d : Bool) : (h.enterDebug c k a d).pc = h.pc := rfl

@[simp] theorem Hart.enterDebug_trap (h : Hart) (c : Config) (k : BitVec 3) (a : Word) (d : Bool) : (h.enterDebug c k a d).trap = h.trap := rfl

@[simp] theorem Hart.enterDebug_ctr (h : Hart) (c : Config) (k : BitVec 3) (a : Word) (d : Bool) : (h.enterDebug c k a d).ctr = h.ctr := rfl

@[simp] theorem Hart.enterDebug_pic (h : Hart) (c : Config) (k : BitVec 3) (a : Word) (d : Bool) : (h.enterDebug c k a d).pic = h.pic := rfl

@[simp] theorem Hart.enterDebug_trig (h : Hart) (c : Config) (k : BitVec 3) (a : Word) (d : Bool) : (h.enterDebug c k a d).trig = h.trig := rfl

@[simp] theorem Hart.enterDebug_diag (h : Hart) (c : Config) (k : BitVec 3) (a : Word) (d : Bool) : (h.enterDebug c k a d).diag = h.diag := rfl

@[simp] theorem Hart.enterDebug_buffer (h : Hart) (c : Config) (k : BitVec 3) (a : Word) (d : Bool) : (h.enterDebug c k a d).buffer = h.buffer := rfl

@[simp] theorem Hart.enterDebug_inFlight (h : Hart) (c : Config) (k : BitVec 3) (a : Word) (d : Bool) : (h.enterDebug c k a d).inFlight = h.inFlight := rfl

@[simp] theorem Hart.enterDebug_nmi (h : Hart) (c : Config) (k : BitVec 3) (a : Word) (d : Bool) : (h.enterDebug c k a d).nmi = h.nmi := rfl

@[simp] theorem Hart.enterDebug_seen (h : Hart) (c : Config) (k : BitVec 3) (a : Word) (d : Bool) : (h.enterDebug c k a d).seen = h.seen := rfl

@[simp] theorem Hart.enterDebug_starting (h : Hart) (c : Config) (k : BitVec 3) (a : Word) (d : Bool) : (h.enterDebug c k a d).starting = h.starting := rfl

@[simp] theorem Hart.resume_regs (h : Hart)  : (h.resume).regs = h.regs := rfl

@[simp] theorem Hart.resume_trap (h : Hart)  : (h.resume).trap = h.trap := rfl

@[simp] theorem Hart.resume_ctr (h : Hart)  : (h.resume).ctr = h.ctr := rfl

@[simp] theorem Hart.resume_tim0 (h : Hart)  : (h.resume).tim0 = h.tim0 := rfl

@[simp] theorem Hart.resume_tim1 (h : Hart)  : (h.resume).tim1 = h.tim1 := rfl

@[simp] theorem Hart.resume_pic (h : Hart)  : (h.resume).pic = h.pic := rfl

@[simp] theorem Hart.resume_trig (h : Hart)  : (h.resume).trig = h.trig := rfl

@[simp] theorem Hart.resume_diag (h : Hart)  : (h.resume).diag = h.diag := rfl

@[simp] theorem Hart.resume_buffer (h : Hart)  : (h.resume).buffer = h.buffer := rfl

@[simp] theorem Hart.resume_inFlight (h : Hart)  : (h.resume).inFlight = h.inFlight := rfl

@[simp] theorem Hart.resume_nmi (h : Hart)  : (h.resume).nmi = h.nmi := rfl

@[simp] theorem Hart.resume_seen (h : Hart)  : (h.resume).seen = h.seen := rfl

@[simp] theorem Hart.resume_starting (h : Hart)  : (h.resume).starting = h.starting := rfl

@[simp] theorem Hart.seeStore_regs (h : Hart) (a n : Nat) : (h.seeStore a n).regs = h.regs := by unfold Hart.seeStore; split <;> (try split) <;> rfl

@[simp] theorem Hart.seeStore_pc (h : Hart) (a n : Nat) : (h.seeStore a n).pc = h.pc := by unfold Hart.seeStore; split <;> (try split) <;> rfl

@[simp] theorem Hart.seeStore_activity (h : Hart) (a n : Nat) : (h.seeStore a n).activity = h.activity := by unfold Hart.seeStore; split <;> (try split) <;> rfl

@[simp] theorem Hart.seeStore_trap (h : Hart) (a n : Nat) : (h.seeStore a n).trap = h.trap := by unfold Hart.seeStore; split <;> (try split) <;> rfl

@[simp] theorem Hart.seeStore_ctr (h : Hart) (a n : Nat) : (h.seeStore a n).ctr = h.ctr := by unfold Hart.seeStore; split <;> (try split) <;> rfl

@[simp] theorem Hart.seeStore_tim0 (h : Hart) (a n : Nat) : (h.seeStore a n).tim0 = h.tim0 := by unfold Hart.seeStore; split <;> (try split) <;> rfl

@[simp] theorem Hart.seeStore_tim1 (h : Hart) (a n : Nat) : (h.seeStore a n).tim1 = h.tim1 := by unfold Hart.seeStore; split <;> (try split) <;> rfl

@[simp] theorem Hart.seeStore_pic (h : Hart) (a n : Nat) : (h.seeStore a n).pic = h.pic := by unfold Hart.seeStore; split <;> (try split) <;> rfl

@[simp] theorem Hart.seeStore_trig (h : Hart) (a n : Nat) : (h.seeStore a n).trig = h.trig := by unfold Hart.seeStore; split <;> (try split) <;> rfl

@[simp] theorem Hart.seeStore_dbg (h : Hart) (a n : Nat) : (h.seeStore a n).dbg = h.dbg := by unfold Hart.seeStore; split <;> (try split) <;> rfl

@[simp] theorem Hart.seeStore_diag (h : Hart) (a n : Nat) : (h.seeStore a n).diag = h.diag := by unfold Hart.seeStore; split <;> (try split) <;> rfl

@[simp] theorem Hart.seeStore_buffer (h : Hart) (a n : Nat) : (h.seeStore a n).buffer = h.buffer := by unfold Hart.seeStore; split <;> (try split) <;> rfl

@[simp] theorem Hart.seeStore_inFlight (h : Hart) (a n : Nat) : (h.seeStore a n).inFlight = h.inFlight := by unfold Hart.seeStore; split <;> (try split) <;> rfl

@[simp] theorem Hart.seeStore_nmi (h : Hart) (a n : Nat) : (h.seeStore a n).nmi = h.nmi := by unfold Hart.seeStore; split <;> (try split) <;> rfl

@[simp] theorem Hart.seeStore_power (h : Hart) (a n : Nat) : (h.seeStore a n).power = h.power := by unfold Hart.seeStore; split <;> (try split) <;> rfl

@[simp] theorem Hart.seeStore_seen (h : Hart) (a n : Nat) : (h.seeStore a n).seen = h.seen := by unfold Hart.seeStore; split <;> (try split) <;> rfl

@[simp] theorem Hart.seeStore_starting (h : Hart) (a n : Nat) : (h.seeStore a n).starting = h.starting := by unfold Hart.seeStore; split <;> (try split) <;> rfl

@[simp] theorem Hart.tick_regs (h : Hart) (i : Nat) (w : Bool) (n k : Nat) : (h.tick i w n k).regs = h.regs := rfl

@[simp] theorem Hart.tick_pc (h : Hart) (i : Nat) (w : Bool) (n k : Nat) : (h.tick i w n k).pc = h.pc := rfl

@[simp] theorem Hart.tick_activity (h : Hart) (i : Nat) (w : Bool) (n k : Nat) : (h.tick i w n k).activity = h.activity := rfl

@[simp] theorem Hart.tick_trap (h : Hart) (i : Nat) (w : Bool) (n k : Nat) : (h.tick i w n k).trap = h.trap := rfl

@[simp] theorem Hart.tick_pic (h : Hart) (i : Nat) (w : Bool) (n k : Nat) : (h.tick i w n k).pic = h.pic := rfl

@[simp] theorem Hart.tick_trig (h : Hart) (i : Nat) (w : Bool) (n k : Nat) : (h.tick i w n k).trig = h.trig := rfl

@[simp] theorem Hart.tick_diag (h : Hart) (i : Nat) (w : Bool) (n k : Nat) : (h.tick i w n k).diag = h.diag := rfl

@[simp] theorem Hart.tick_reservation (h : Hart) (i : Nat) (w : Bool) (n k : Nat) : (h.tick i w n k).reservation = h.reservation := rfl

@[simp] theorem Hart.tick_buffer (h : Hart) (i : Nat) (w : Bool) (n k : Nat) : (h.tick i w n k).buffer = h.buffer := rfl

@[simp] theorem Hart.tick_inFlight (h : Hart) (i : Nat) (w : Bool) (n k : Nat) : (h.tick i w n k).inFlight = h.inFlight := rfl

@[simp] theorem Hart.tick_seen (h : Hart) (i : Nat) (w : Bool) (n k : Nat) : (h.tick i w n k).seen = h.seen := rfl

@[simp] theorem Hart.tick_starting (h : Hart) (i : Nat) (w : Bool) (n k : Nat) : (h.tick i w n k).starting = h.starting := rfl

@[simp] theorem Hart.writeCounter_regs (h : Hart) (n k : Nat) (d : Bool) (i : CounterId) (f : DWord → DWord) : (h.writeCounter n k d i f).regs = h.regs := by unfold Hart.writeCounter; split <;> rfl

@[simp] theorem Hart.writeCounter_pc (h : Hart) (n k : Nat) (d : Bool) (i : CounterId) (f : DWord → DWord) : (h.writeCounter n k d i f).pc = h.pc := by unfold Hart.writeCounter; split <;> rfl

@[simp] theorem Hart.writeCounter_activity (h : Hart) (n k : Nat) (d : Bool) (i : CounterId) (f : DWord → DWord) : (h.writeCounter n k d i f).activity = h.activity := by unfold Hart.writeCounter; split <;> rfl

@[simp] theorem Hart.writeCounter_trap (h : Hart) (n k : Nat) (d : Bool) (i : CounterId) (f : DWord → DWord) : (h.writeCounter n k d i f).trap = h.trap := by unfold Hart.writeCounter; split <;> rfl

@[simp] theorem Hart.writeCounter_tim0 (h : Hart) (n k : Nat) (d : Bool) (i : CounterId) (f : DWord → DWord) : (h.writeCounter n k d i f).tim0 = h.tim0 := by unfold Hart.writeCounter; split <;> rfl

@[simp] theorem Hart.writeCounter_tim1 (h : Hart) (n k : Nat) (d : Bool) (i : CounterId) (f : DWord → DWord) : (h.writeCounter n k d i f).tim1 = h.tim1 := by unfold Hart.writeCounter; split <;> rfl

@[simp] theorem Hart.writeCounter_pic (h : Hart) (n k : Nat) (d : Bool) (i : CounterId) (f : DWord → DWord) : (h.writeCounter n k d i f).pic = h.pic := by unfold Hart.writeCounter; split <;> rfl

@[simp] theorem Hart.writeCounter_trig (h : Hart) (n k : Nat) (d : Bool) (i : CounterId) (f : DWord → DWord) : (h.writeCounter n k d i f).trig = h.trig := by unfold Hart.writeCounter; split <;> rfl

@[simp] theorem Hart.writeCounter_dbg (h : Hart) (n k : Nat) (d : Bool) (i : CounterId) (f : DWord → DWord) : (h.writeCounter n k d i f).dbg = h.dbg := by unfold Hart.writeCounter; split <;> rfl

@[simp] theorem Hart.writeCounter_diag (h : Hart) (n k : Nat) (d : Bool) (i : CounterId) (f : DWord → DWord) : (h.writeCounter n k d i f).diag = h.diag := by unfold Hart.writeCounter; split <;> rfl

@[simp] theorem Hart.writeCounter_reservation (h : Hart) (n k : Nat) (d : Bool) (i : CounterId) (f : DWord → DWord) : (h.writeCounter n k d i f).reservation = h.reservation := by unfold Hart.writeCounter; split <;> rfl

@[simp] theorem Hart.writeCounter_buffer (h : Hart) (n k : Nat) (d : Bool) (i : CounterId) (f : DWord → DWord) : (h.writeCounter n k d i f).buffer = h.buffer := by unfold Hart.writeCounter; split <;> rfl

@[simp] theorem Hart.writeCounter_inFlight (h : Hart) (n k : Nat) (d : Bool) (i : CounterId) (f : DWord → DWord) : (h.writeCounter n k d i f).inFlight = h.inFlight := by unfold Hart.writeCounter; split <;> rfl

@[simp] theorem Hart.writeCounter_nmi (h : Hart) (n k : Nat) (d : Bool) (i : CounterId) (f : DWord → DWord) : (h.writeCounter n k d i f).nmi = h.nmi := by unfold Hart.writeCounter; split <;> rfl

@[simp] theorem Hart.writeCounter_power (h : Hart) (n k : Nat) (d : Bool) (i : CounterId) (f : DWord → DWord) : (h.writeCounter n k d i f).power = h.power := by unfold Hart.writeCounter; split <;> rfl

@[simp] theorem Hart.writeCounter_seen (h : Hart) (n k : Nat) (d : Bool) (i : CounterId) (f : DWord → DWord) : (h.writeCounter n k d i f).seen = h.seen := by unfold Hart.writeCounter; split <;> rfl

@[simp] theorem Hart.writeCounter_starting (h : Hart) (n k : Nat) (d : Bool) (i : CounterId) (f : DWord → DWord) : (h.writeCounter n k d i f).starting = h.starting := by unfold Hart.writeCounter; split <;> rfl

@[simp] theorem Hart.writeMcpc_regs (h : Hart) (c : Config) (w : Word) : (h.writeMcpc c w).regs = h.regs := by unfold Hart.writeMcpc; split <;> rfl

@[simp] theorem Hart.writeMcpc_pc (h : Hart) (c : Config) (w : Word) : (h.writeMcpc c w).pc = h.pc := by unfold Hart.writeMcpc; split <;> rfl

@[simp] theorem Hart.writeMcpc_activity (h : Hart) (c : Config) (w : Word) : (h.writeMcpc c w).activity = h.activity := by unfold Hart.writeMcpc; split <;> rfl

@[simp] theorem Hart.writeMcpc_trap (h : Hart) (c : Config) (w : Word) : (h.writeMcpc c w).trap = h.trap := by unfold Hart.writeMcpc; split <;> rfl

@[simp] theorem Hart.writeMcpc_ctr (h : Hart) (c : Config) (w : Word) : (h.writeMcpc c w).ctr = h.ctr := by unfold Hart.writeMcpc; split <;> rfl

@[simp] theorem Hart.writeMcpc_tim0 (h : Hart) (c : Config) (w : Word) : (h.writeMcpc c w).tim0 = h.tim0 := by unfold Hart.writeMcpc; split <;> rfl

@[simp] theorem Hart.writeMcpc_tim1 (h : Hart) (c : Config) (w : Word) : (h.writeMcpc c w).tim1 = h.tim1 := by unfold Hart.writeMcpc; split <;> rfl

@[simp] theorem Hart.writeMcpc_pic (h : Hart) (c : Config) (w : Word) : (h.writeMcpc c w).pic = h.pic := by unfold Hart.writeMcpc; split <;> rfl

@[simp] theorem Hart.writeMcpc_trig (h : Hart) (c : Config) (w : Word) : (h.writeMcpc c w).trig = h.trig := by unfold Hart.writeMcpc; split <;> rfl

@[simp] theorem Hart.writeMcpc_dbg (h : Hart) (c : Config) (w : Word) : (h.writeMcpc c w).dbg = h.dbg := by unfold Hart.writeMcpc; split <;> rfl

@[simp] theorem Hart.writeMcpc_diag (h : Hart) (c : Config) (w : Word) : (h.writeMcpc c w).diag = h.diag := by unfold Hart.writeMcpc; split <;> rfl

@[simp] theorem Hart.writeMcpc_reservation (h : Hart) (c : Config) (w : Word) : (h.writeMcpc c w).reservation = h.reservation := by unfold Hart.writeMcpc; split <;> rfl

@[simp] theorem Hart.writeMcpc_buffer (h : Hart) (c : Config) (w : Word) : (h.writeMcpc c w).buffer = h.buffer := by unfold Hart.writeMcpc; split <;> rfl

@[simp] theorem Hart.writeMcpc_inFlight (h : Hart) (c : Config) (w : Word) : (h.writeMcpc c w).inFlight = h.inFlight := by unfold Hart.writeMcpc; split <;> rfl

@[simp] theorem Hart.writeMcpc_nmi (h : Hart) (c : Config) (w : Word) : (h.writeMcpc c w).nmi = h.nmi := by unfold Hart.writeMcpc; split <;> rfl

@[simp] theorem Hart.writeMcpc_seen (h : Hart) (c : Config) (w : Word) : (h.writeMcpc c w).seen = h.seen := by unfold Hart.writeMcpc; split <;> rfl

@[simp] theorem Hart.writeMcpc_starting (h : Hart) (c : Config) (w : Word) : (h.writeMcpc c w).starting = h.starting := by unfold Hart.writeMcpc; split <;> rfl

/-! ## Operations on the state -/

@[simp] theorem State.setReg_cfg (s : State) (i : RegIdx) (v : Word) : (s.setReg i v).cfg = s.cfg := rfl

@[simp] theorem State.setReg_cur (s : State) (i : RegIdx) (v : Word) : (s.setReg i v).cur = s.cur := rfl

@[simp] theorem State.setReg_inReset (s : State) (i : RegIdx) (v : Word) : (s.setReg i v).inReset = s.inReset := rfl

@[simp] theorem State.setReg_shared (s : State) (i : RegIdx) (v : Word) : (s.setReg i v).shared = s.shared := rfl

@[simp] theorem State.setReg_pic (s : State) (i : RegIdx) (v : Word) : (s.setReg i v).pic = s.pic := rfl

@[simp] theorem State.setReg_icache (s : State) (i : RegIdx) (v : Word) : (s.setReg i v).icache = s.icache := rfl

@[simp] theorem State.setReg_dm (s : State) (i : RegIdx) (v : Word) : (s.setReg i v).dm = s.dm := rfl

@[simp] theorem State.setReg_mem (s : State) (i : RegIdx) (v : Word) : (s.setReg i v).mem = s.mem := rfl

@[simp] theorem State.setReg_badWords (s : State) (i : RegIdx) (v : Word) : (s.setReg i v).badWords = s.badWords := rfl

@[simp] theorem State.setReg_pins (s : State) (i : RegIdx) (v : Word) : (s.setReg i v).pins = s.pins := rfl

@[simp] theorem State.setReg_nmiPin (s : State) (i : RegIdx) (v : Word) : (s.setReg i v).nmiPin = s.nmiPin := rfl

@[simp] theorem State.setReg_dma (s : State) (i : RegIdx) (v : Word) : (s.setReg i v).dma = s.dma := rfl

@[simp] theorem State.setReg_env (s : State) (i : RegIdx) (v : Word) : (s.setReg i v).env = s.env := rfl

@[simp] theorem State.retire_cfg (s : State) (n : Nat) (e : List Nat) : (s.retire n e).cfg = s.cfg := rfl

@[simp] theorem State.retire_cur (s : State) (n : Nat) (e : List Nat) : (s.retire n e).cur = s.cur := rfl

@[simp] theorem State.retire_inReset (s : State) (n : Nat) (e : List Nat) : (s.retire n e).inReset = s.inReset := rfl

@[simp] theorem State.retire_shared (s : State) (n : Nat) (e : List Nat) : (s.retire n e).shared = s.shared := rfl

@[simp] theorem State.retire_pic (s : State) (n : Nat) (e : List Nat) : (s.retire n e).pic = s.pic := rfl

@[simp] theorem State.retire_icache (s : State) (n : Nat) (e : List Nat) : (s.retire n e).icache = s.icache := rfl

@[simp] theorem State.retire_dm (s : State) (n : Nat) (e : List Nat) : (s.retire n e).dm = s.dm := rfl

@[simp] theorem State.retire_mem (s : State) (n : Nat) (e : List Nat) : (s.retire n e).mem = s.mem := rfl

@[simp] theorem State.retire_badWords (s : State) (n : Nat) (e : List Nat) : (s.retire n e).badWords = s.badWords := rfl

@[simp] theorem State.retire_pins (s : State) (n : Nat) (e : List Nat) : (s.retire n e).pins = s.pins := rfl

@[simp] theorem State.retire_nmiPin (s : State) (n : Nat) (e : List Nat) : (s.retire n e).nmiPin = s.nmiPin := rfl

@[simp] theorem State.retire_dma (s : State) (n : Nat) (e : List Nat) : (s.retire n e).dma = s.dma := rfl

@[simp] theorem State.retire_env (s : State) (n : Nat) (e : List Nat) : (s.retire n e).env = s.env := rfl

@[simp] theorem State.retireTo_cfg (s : State) (a : Word) (n : Nat) (e : List Nat) : (s.retireTo a n e).cfg = s.cfg := rfl

@[simp] theorem State.retireTo_cur (s : State) (a : Word) (n : Nat) (e : List Nat) : (s.retireTo a n e).cur = s.cur := rfl

@[simp] theorem State.retireTo_inReset (s : State) (a : Word) (n : Nat) (e : List Nat) : (s.retireTo a n e).inReset = s.inReset := rfl

@[simp] theorem State.retireTo_shared (s : State) (a : Word) (n : Nat) (e : List Nat) : (s.retireTo a n e).shared = s.shared := rfl

@[simp] theorem State.retireTo_pic (s : State) (a : Word) (n : Nat) (e : List Nat) : (s.retireTo a n e).pic = s.pic := rfl

@[simp] theorem State.retireTo_icache (s : State) (a : Word) (n : Nat) (e : List Nat) : (s.retireTo a n e).icache = s.icache := rfl

@[simp] theorem State.retireTo_dm (s : State) (a : Word) (n : Nat) (e : List Nat) : (s.retireTo a n e).dm = s.dm := rfl

@[simp] theorem State.retireTo_mem (s : State) (a : Word) (n : Nat) (e : List Nat) : (s.retireTo a n e).mem = s.mem := rfl

@[simp] theorem State.retireTo_badWords (s : State) (a : Word) (n : Nat) (e : List Nat) : (s.retireTo a n e).badWords = s.badWords := rfl

@[simp] theorem State.retireTo_pins (s : State) (a : Word) (n : Nat) (e : List Nat) : (s.retireTo a n e).pins = s.pins := rfl

@[simp] theorem State.retireTo_nmiPin (s : State) (a : Word) (n : Nat) (e : List Nat) : (s.retireTo a n e).nmiPin = s.nmiPin := rfl

@[simp] theorem State.retireTo_dma (s : State) (a : Word) (n : Nat) (e : List Nat) : (s.retireTo a n e).dma = s.dma := rfl

@[simp] theorem State.retireTo_env (s : State) (a : Word) (n : Nat) (e : List Nat) : (s.retireTo a n e).env = s.env := rfl

@[simp] theorem State.writeBack_cfg (s : State) (n : Nat) (e : List Nat) (i : RegIdx) (v : Word) : (s.writeBack n e i v).cfg = s.cfg := rfl

@[simp] theorem State.writeBack_cur (s : State) (n : Nat) (e : List Nat) (i : RegIdx) (v : Word) : (s.writeBack n e i v).cur = s.cur := rfl

@[simp] theorem State.writeBack_inReset (s : State) (n : Nat) (e : List Nat) (i : RegIdx) (v : Word) : (s.writeBack n e i v).inReset = s.inReset := rfl

@[simp] theorem State.writeBack_shared (s : State) (n : Nat) (e : List Nat) (i : RegIdx) (v : Word) : (s.writeBack n e i v).shared = s.shared := rfl

@[simp] theorem State.writeBack_pic (s : State) (n : Nat) (e : List Nat) (i : RegIdx) (v : Word) : (s.writeBack n e i v).pic = s.pic := rfl

@[simp] theorem State.writeBack_icache (s : State) (n : Nat) (e : List Nat) (i : RegIdx) (v : Word) : (s.writeBack n e i v).icache = s.icache := rfl

@[simp] theorem State.writeBack_dm (s : State) (n : Nat) (e : List Nat) (i : RegIdx) (v : Word) : (s.writeBack n e i v).dm = s.dm := rfl

@[simp] theorem State.writeBack_mem (s : State) (n : Nat) (e : List Nat) (i : RegIdx) (v : Word) : (s.writeBack n e i v).mem = s.mem := rfl

@[simp] theorem State.writeBack_badWords (s : State) (n : Nat) (e : List Nat) (i : RegIdx) (v : Word) : (s.writeBack n e i v).badWords = s.badWords := rfl

@[simp] theorem State.writeBack_pins (s : State) (n : Nat) (e : List Nat) (i : RegIdx) (v : Word) : (s.writeBack n e i v).pins = s.pins := rfl

@[simp] theorem State.writeBack_nmiPin (s : State) (n : Nat) (e : List Nat) (i : RegIdx) (v : Word) : (s.writeBack n e i v).nmiPin = s.nmiPin := rfl

@[simp] theorem State.writeBack_dma (s : State) (n : Nat) (e : List Nat) (i : RegIdx) (v : Word) : (s.writeBack n e i v).dma = s.dma := rfl

@[simp] theorem State.writeBack_env (s : State) (n : Nat) (e : List Nat) (i : RegIdx) (v : Word) : (s.writeBack n e i v).env = s.env := rfl

@[simp] theorem State.exception_cfg (s : State) (c : Cause) (v : Word) (e : List Nat) : (s.exception c v e).cfg = s.cfg := rfl

@[simp] theorem State.exception_cur (s : State) (c : Cause) (v : Word) (e : List Nat) : (s.exception c v e).cur = s.cur := rfl

@[simp] theorem State.exception_inReset (s : State) (c : Cause) (v : Word) (e : List Nat) : (s.exception c v e).inReset = s.inReset := rfl

@[simp] theorem State.exception_shared (s : State) (c : Cause) (v : Word) (e : List Nat) : (s.exception c v e).shared = s.shared := rfl

@[simp] theorem State.exception_pic (s : State) (c : Cause) (v : Word) (e : List Nat) : (s.exception c v e).pic = s.pic := rfl

@[simp] theorem State.exception_icache (s : State) (c : Cause) (v : Word) (e : List Nat) : (s.exception c v e).icache = s.icache := rfl

@[simp] theorem State.exception_dm (s : State) (c : Cause) (v : Word) (e : List Nat) : (s.exception c v e).dm = s.dm := rfl

@[simp] theorem State.exception_mem (s : State) (c : Cause) (v : Word) (e : List Nat) : (s.exception c v e).mem = s.mem := rfl

@[simp] theorem State.exception_badWords (s : State) (c : Cause) (v : Word) (e : List Nat) : (s.exception c v e).badWords = s.badWords := rfl

@[simp] theorem State.exception_pins (s : State) (c : Cause) (v : Word) (e : List Nat) : (s.exception c v e).pins = s.pins := rfl

@[simp] theorem State.exception_nmiPin (s : State) (c : Cause) (v : Word) (e : List Nat) : (s.exception c v e).nmiPin = s.nmiPin := rfl

@[simp] theorem State.exception_dma (s : State) (c : Cause) (v : Word) (e : List Nat) : (s.exception c v e).dma = s.dma := rfl

@[simp] theorem State.exception_env (s : State) (c : Cause) (v : Word) (e : List Nat) : (s.exception c v e).env = s.env := rfl

@[simp] theorem State.busError_cfg (s : State) (h : HartId) (k : BusNmi) (a : Word) : (s.busError h k a).cfg = s.cfg := rfl

@[simp] theorem State.busError_cur (s : State) (h : HartId) (k : BusNmi) (a : Word) : (s.busError h k a).cur = s.cur := rfl

@[simp] theorem State.busError_inReset (s : State) (h : HartId) (k : BusNmi) (a : Word) : (s.busError h k a).inReset = s.inReset := rfl

@[simp] theorem State.busError_shared (s : State) (h : HartId) (k : BusNmi) (a : Word) : (s.busError h k a).shared = s.shared := rfl

@[simp] theorem State.busError_pic (s : State) (h : HartId) (k : BusNmi) (a : Word) : (s.busError h k a).pic = s.pic := rfl

@[simp] theorem State.busError_icache (s : State) (h : HartId) (k : BusNmi) (a : Word) : (s.busError h k a).icache = s.icache := rfl

@[simp] theorem State.busError_dm (s : State) (h : HartId) (k : BusNmi) (a : Word) : (s.busError h k a).dm = s.dm := rfl

@[simp] theorem State.busError_mem (s : State) (h : HartId) (k : BusNmi) (a : Word) : (s.busError h k a).mem = s.mem := rfl

@[simp] theorem State.busError_badWords (s : State) (h : HartId) (k : BusNmi) (a : Word) : (s.busError h k a).badWords = s.badWords := rfl

@[simp] theorem State.busError_pins (s : State) (h : HartId) (k : BusNmi) (a : Word) : (s.busError h k a).pins = s.pins := rfl

@[simp] theorem State.busError_nmiPin (s : State) (h : HartId) (k : BusNmi) (a : Word) : (s.busError h k a).nmiPin = s.nmiPin := rfl

@[simp] theorem State.busError_dma (s : State) (h : HartId) (k : BusNmi) (a : Word) : (s.busError h k a).dma = s.dma := rfl

@[simp] theorem State.busError_env (s : State) (h : HartId) (k : BusNmi) (a : Word) : (s.busError h k a).env = s.env := rfl

@[simp] theorem State.busStore_cfg (s : State) (h : HartId) (a v : Word) (n : Nat) : (s.busStore h a v n).cfg = s.cfg := rfl

@[simp] theorem State.busStore_cur (s : State) (h : HartId) (a v : Word) (n : Nat) : (s.busStore h a v n).cur = s.cur := rfl

@[simp] theorem State.busStore_inReset (s : State) (h : HartId) (a v : Word) (n : Nat) : (s.busStore h a v n).inReset = s.inReset := rfl

@[simp] theorem State.busStore_shared (s : State) (h : HartId) (a v : Word) (n : Nat) : (s.busStore h a v n).shared = s.shared := rfl

@[simp] theorem State.busStore_pic (s : State) (h : HartId) (a v : Word) (n : Nat) : (s.busStore h a v n).pic = s.pic := rfl

@[simp] theorem State.busStore_icache (s : State) (h : HartId) (a v : Word) (n : Nat) : (s.busStore h a v n).icache = s.icache := rfl

@[simp] theorem State.busStore_dm (s : State) (h : HartId) (a v : Word) (n : Nat) : (s.busStore h a v n).dm = s.dm := rfl

@[simp] theorem State.busStore_mem (s : State) (h : HartId) (a v : Word) (n : Nat) : (s.busStore h a v n).mem = s.mem := rfl

@[simp] theorem State.busStore_badWords (s : State) (h : HartId) (a v : Word) (n : Nat) : (s.busStore h a v n).badWords = s.badWords := rfl

@[simp] theorem State.busStore_pins (s : State) (h : HartId) (a v : Word) (n : Nat) : (s.busStore h a v n).pins = s.pins := rfl

@[simp] theorem State.busStore_nmiPin (s : State) (h : HartId) (a v : Word) (n : Nat) : (s.busStore h a v n).nmiPin = s.nmiPin := rfl

@[simp] theorem State.busStore_dma (s : State) (h : HartId) (a v : Word) (n : Nat) : (s.busStore h a v n).dma = s.dma := rfl

@[simp] theorem State.busStore_env (s : State) (h : HartId) (a v : Word) (n : Nat) : (s.busStore h a v n).env = s.env := rfl

@[simp] theorem State.picWrite_cfg (s : State) (o : Nat) (v : Word) : (s.picWrite o v).cfg = s.cfg := rfl

@[simp] theorem State.picWrite_cur (s : State) (o : Nat) (v : Word) : (s.picWrite o v).cur = s.cur := rfl

@[simp] theorem State.picWrite_inReset (s : State) (o : Nat) (v : Word) : (s.picWrite o v).inReset = s.inReset := rfl

@[simp] theorem State.picWrite_harts (s : State) (o : Nat) (v : Word) : (s.picWrite o v).harts = s.harts := rfl

@[simp] theorem State.picWrite_shared (s : State) (o : Nat) (v : Word) : (s.picWrite o v).shared = s.shared := rfl

@[simp] theorem State.picWrite_icache (s : State) (o : Nat) (v : Word) : (s.picWrite o v).icache = s.icache := rfl

@[simp] theorem State.picWrite_dm (s : State) (o : Nat) (v : Word) : (s.picWrite o v).dm = s.dm := rfl

@[simp] theorem State.picWrite_mem (s : State) (o : Nat) (v : Word) : (s.picWrite o v).mem = s.mem := rfl

@[simp] theorem State.picWrite_badWords (s : State) (o : Nat) (v : Word) : (s.picWrite o v).badWords = s.badWords := rfl

@[simp] theorem State.picWrite_pins (s : State) (o : Nat) (v : Word) : (s.picWrite o v).pins = s.pins := rfl

@[simp] theorem State.picWrite_nmiPin (s : State) (o : Nat) (v : Word) : (s.picWrite o v).nmiPin = s.nmiPin := rfl

@[simp] theorem State.picWrite_dma (s : State) (o : Nat) (v : Word) : (s.picWrite o v).dma = s.dma := rfl

@[simp] theorem State.picWrite_env (s : State) (o : Nat) (v : Word) : (s.picWrite o v).env = s.env := rfl

@[simp] theorem State.ccmWrite_cfg (s : State) (a v : Word) (n : Nat) : (s.ccmWrite a v n).cfg = s.cfg := rfl

@[simp] theorem State.ccmWrite_cur (s : State) (a v : Word) (n : Nat) : (s.ccmWrite a v n).cur = s.cur := rfl

@[simp] theorem State.ccmWrite_inReset (s : State) (a v : Word) (n : Nat) : (s.ccmWrite a v n).inReset = s.inReset := rfl

@[simp] theorem State.ccmWrite_harts (s : State) (a v : Word) (n : Nat) : (s.ccmWrite a v n).harts = s.harts := rfl

@[simp] theorem State.ccmWrite_shared (s : State) (a v : Word) (n : Nat) : (s.ccmWrite a v n).shared = s.shared := rfl

@[simp] theorem State.ccmWrite_pic (s : State) (a v : Word) (n : Nat) : (s.ccmWrite a v n).pic = s.pic := rfl

@[simp] theorem State.ccmWrite_icache (s : State) (a v : Word) (n : Nat) : (s.ccmWrite a v n).icache = s.icache := rfl

@[simp] theorem State.ccmWrite_dm (s : State) (a v : Word) (n : Nat) : (s.ccmWrite a v n).dm = s.dm := rfl

@[simp] theorem State.ccmWrite_pins (s : State) (a v : Word) (n : Nat) : (s.ccmWrite a v n).pins = s.pins := rfl

@[simp] theorem State.ccmWrite_nmiPin (s : State) (a v : Word) (n : Nat) : (s.ccmWrite a v n).nmiPin = s.nmiPin := rfl

@[simp] theorem State.ccmWrite_dma (s : State) (a v : Word) (n : Nat) : (s.ccmWrite a v n).dma = s.dma := rfl

@[simp] theorem State.ccmWrite_env (s : State) (a v : Word) (n : Nat) : (s.ccmWrite a v n).env = s.env := rfl

@[simp] theorem State.dccmStore_cfg (s : State) (a v : Word) (n : Nat) : (s.dccmStore a v n).cfg = s.cfg := rfl

@[simp] theorem State.dccmStore_cur (s : State) (a v : Word) (n : Nat) : (s.dccmStore a v n).cur = s.cur := rfl

@[simp] theorem State.dccmStore_inReset (s : State) (a v : Word) (n : Nat) : (s.dccmStore a v n).inReset = s.inReset := rfl

@[simp] theorem State.dccmStore_shared (s : State) (a v : Word) (n : Nat) : (s.dccmStore a v n).shared = s.shared := rfl

@[simp] theorem State.dccmStore_pic (s : State) (a v : Word) (n : Nat) : (s.dccmStore a v n).pic = s.pic := rfl

@[simp] theorem State.dccmStore_icache (s : State) (a v : Word) (n : Nat) : (s.dccmStore a v n).icache = s.icache := rfl

@[simp] theorem State.dccmStore_dm (s : State) (a v : Word) (n : Nat) : (s.dccmStore a v n).dm = s.dm := rfl

@[simp] theorem State.dccmStore_pins (s : State) (a v : Word) (n : Nat) : (s.dccmStore a v n).pins = s.pins := rfl

@[simp] theorem State.dccmStore_nmiPin (s : State) (a v : Word) (n : Nat) : (s.dccmStore a v n).nmiPin = s.nmiPin := rfl

@[simp] theorem State.dccmStore_dma (s : State) (a v : Word) (n : Nat) : (s.dccmStore a v n).dma = s.dma := rfl

@[simp] theorem State.dccmStore_env (s : State) (a v : Word) (n : Nat) : (s.dccmStore a v n).env = s.env := rfl

@[simp] theorem State.captureClaim_cfg (s : State) (h : HartId) : (s.captureClaim h).cfg = s.cfg := rfl

@[simp] theorem State.captureClaim_cur (s : State) (h : HartId) : (s.captureClaim h).cur = s.cur := rfl

@[simp] theorem State.captureClaim_inReset (s : State) (h : HartId) : (s.captureClaim h).inReset = s.inReset := rfl

@[simp] theorem State.captureClaim_shared (s : State) (h : HartId) : (s.captureClaim h).shared = s.shared := rfl

@[simp] theorem State.captureClaim_pic (s : State) (h : HartId) : (s.captureClaim h).pic = s.pic := rfl

@[simp] theorem State.captureClaim_icache (s : State) (h : HartId) : (s.captureClaim h).icache = s.icache := rfl

@[simp] theorem State.captureClaim_dm (s : State) (h : HartId) : (s.captureClaim h).dm = s.dm := rfl

@[simp] theorem State.captureClaim_mem (s : State) (h : HartId) : (s.captureClaim h).mem = s.mem := rfl

@[simp] theorem State.captureClaim_badWords (s : State) (h : HartId) : (s.captureClaim h).badWords = s.badWords := rfl

@[simp] theorem State.captureClaim_pins (s : State) (h : HartId) : (s.captureClaim h).pins = s.pins := rfl

@[simp] theorem State.captureClaim_nmiPin (s : State) (h : HartId) : (s.captureClaim h).nmiPin = s.nmiPin := rfl

@[simp] theorem State.captureClaim_dma (s : State) (h : HartId) : (s.captureClaim h).dma = s.dma := rfl

@[simp] theorem State.captureClaim_env (s : State) (h : HartId) : (s.captureClaim h).env = s.env := rfl

end Sys2Proof.Machine
end

