-- ==== Sys2Proof/Laws/Ops.lean ====
section
/-! SUPPORT. What each shared operation of Machine/Ops.lean and Machine/Operands.lean can do, said once: proofs cite these
lemmas and do not unfold the operations. -/

namespace Sys2Proof.Machine

/-! ## Registers -/

/-- `x0` reads 0. -/
@[simp] theorem Hart.reg_zero (h : Hart) : h.reg 0 = 0 := rfl

/-- A register after a write of a register. -/
theorem Hart.reg_setReg (h : Hart) (i r : RegIdx) (v : Word) :
    (h.setReg i v).reg r = if r = 0 then 0 else if r = i then v else h.reg r := by
  by_cases hr : r = 0
  · rw [hr, if_pos rfl, Hart.reg_zero]
  rw [if_neg hr]
  by_cases hi : i = 0
  · have hne : r ≠ i := by rw [hi]; exact hr
    rw [if_neg hne, Hart.setReg, if_pos hi]
  rw [Hart.setReg, if_neg hi]
  unfold Hart.reg
  rw [if_neg hr]
  by_cases he : r = i
  · subst he
    rw [if_pos rfl]
    exact Vector.getElem_set_self _
  · have hne : i.toNat ≠ r.toNat := fun e => he (BitVec.eq_of_toNat_eq e.symm)
    rw [if_neg he, if_neg hr]
    exact Vector.getElem_set_ne i.isLt r.isLt hne

/-- Registers depend on nothing but `regs`. -/
theorem Hart.reg_congr {h h' : Hart} (e : h'.regs = h.regs) (r : RegIdx) : h'.reg r = h.reg r := by
  unfold Hart.reg
  simp only [e]

/-- A register of a state whose executing hart was changed. -/
@[simp] theorem State.reg_mapHart (s : State) (f : Hart → Hart) (r : RegIdx) : (s.mapHart f).reg r = (f s.hart).reg r := by
  simp [State.reg]

/-- The pc of a state whose executing hart was changed. -/
@[simp] theorem State.pc_mapHart (s : State) (f : Hart → Hart) : (s.mapHart f).pc = (f s.hart).pc := by
  simp [State.pc]

/-- A state whose executing hart was changed, compared by that hart. -/
theorem State.mapHart_congr (s : State) (f g : Hart → Hart) (e : f s.hart = g s.hart) : s.mapHart f = s.mapHart g := by
  simp only [State.mapHart, State.mapHartAt]
  rw [show f (s.harts.get s.cur) = g (s.harts.get s.cur) from e]

/-- Changing the executing hart to itself changes nothing. -/
@[simp] theorem State.mapHart_id (s : State) : (s.mapHart fun h => h) = s := by
  simp [State.mapHart, State.mapHartAt]

/-! ## Counting -/

/-- Counting events leaves the fixed counters, the selectors and the inhibit bits. -/
@[simp] theorem Counters.count_minstret (c : Counters) (e : List Nat) : (c.count e).minstret = c.minstret := rfl
@[simp] theorem Counters.count_mcycle (c : Counters) (e : List Nat) : (c.count e).mcycle = c.mcycle := rfl
@[simp] theorem Counters.count_inhibit (c : Counters) (e : List Nat) : (c.count e).inhibit = c.inhibit := rfl
@[simp] theorem Counters.count_written (c : Counters) (e : List Nat) : (c.count e).written = c.written := rfl
@[simp] theorem Counters.count_sel (c : Counters) (e : List Nat) (n : HpmIdx) : (c.count e).sel n = c.sel n := by
  cases n <;> rfl
@[simp] theorem Counters.commit_mcycle (c : Counters) (n : Nat) (e : List Nat) : (c.commit n e).mcycle = c.mcycle := rfl
@[simp] theorem Counters.commit_inhibit (c : Counters) (n : Nat) (e : List Nat) :
    (c.commit n e).inhibit = c.inhibit := rfl
@[simp] theorem Counters.commit_written (c : Counters) (n : Nat) (e : List Nat) :
    (c.commit n e).written = c.written := rfl
@[simp] theorem Counters.commit_sel (c : Counters) (n : Nat) (e : List Nat) (k : HpmIdx) :
    (c.commit n e).sel k = c.sel k := by cases k <;> rfl
theorem Counters.commit_minstret (c : Counters) (n : Nat) (e : List Nat) :
    (c.commit n e).minstret = if c.inhibit.getLsbD 2 then c.minstret else c.minstret + 1 := rfl

@[simp] theorem Hart.count_minstret (h : Hart) (e : List Nat) : (h.count e).ctr.minstret = h.ctr.minstret := by
  unfold Hart.count; split <;> rfl
@[simp] theorem Hart.count_mcycle (h : Hart) (e : List Nat) : (h.count e).ctr.mcycle = h.ctr.mcycle := by
  unfold Hart.count; split <;> rfl
@[simp] theorem Hart.count_inhibit (h : Hart) (e : List Nat) : (h.count e).ctr.inhibit = h.ctr.inhibit := by
  unfold Hart.count; split <;> rfl

/-- A retired instruction is counted once. -/
theorem Hart.retireTo_counted (h : Hart) (a : Word) (n : Nat) (e : List Nat) : CountedOnce h (h.retireTo a n e) := by
  unfold Hart.retireTo
  constructor <;> by_cases hc : h.countersOn <;> simp [hc, Counters.commit_minstret]
  split <;> simp_all

/-- `CountedOnce` looks at the counters only. -/
theorem CountedOnce.congr {h h' k : Hart} (c : CountedOnce h h') (e : k.ctr = h'.ctr) : CountedOnce h k := by
  obtain ⟨a, b, c, d, f⟩ := c
  constructor <;> simp only [e] <;> assumption

/-! ## Retiring -/

/-- The pc after an instruction of `n` bytes that does not jump. -/
@[simp] theorem Hart.retire_pc (h : Hart) (n : Nat) (e : List Nat) : (h.retire n e).pc = h.pc + BitVec.ofNat 32 n := rfl

@[simp] theorem Hart.retireTo_pc (h : Hart) (a : Word) (n : Nat) (e : List Nat) : (h.retireTo a n e).pc = a := rfl

/-- An instruction that only writes back computes its value. -/
theorem State.writeBack_computes (s : State) (n : Nat) (e : List Nat) (rd : RegIdx) (v : Word) :
    Computes s (s.writeBack n e rd v) n rd v where
  result r := by
    unfold State.writeBack
    rw [State.reg_mapHart, Hart.reg_setReg, Hart.reg_congr (h := s.hart) (h' := s.hart.retire n e) rfl]
    rfl
  pc := by unfold State.writeBack; simp [State.pc]
  counted := by
    unfold State.writeBack
    rw [State.hart_mapHart]
    exact (Hart.retireTo_counted s.hart (s.hart.pc + BitVec.ofNat 32 n) n e).congr (by simp [Hart.retire])
  memory _ := rfl
  rest := by
    unfold OnlyRegisters State.writeBack
    rw [State.hart_mapHart]
    apply State.mapHart_congr
    unfold Hart.setReg
    split <;> rfl

/-- An instruction that retires and writes nothing. -/
theorem State.retireTo_goes (s : State) (a : Word) (n : Nat) (e : List Nat) : GoesTo s (s.retireTo a n e) a where
  registers r := by unfold State.retireTo; simp [Hart.reg_congr (h := s.hart) (h' := s.hart.retireTo a n e) rfl, State.reg]
  pc := by unfold State.retireTo; simp
  counted := by
    unfold State.retireTo
    rw [State.hart_mapHart]
    exact Hart.retireTo_counted s.hart a n e
  memory _ := rfl
  rest := by
    unfold OnlyRegisters State.retireTo
    rw [State.hart_mapHart]
    exact State.mapHart_congr _ _ _ rfl

/-- An instruction that retires to the next one. -/
theorem State.retire_goes (s : State) (n : Nat) (e : List Nat) :
    GoesTo s (s.retire n e) (s.pc + BitVec.ofNat 32 n) := State.retireTo_goes s _ n e

/-- A jump links and goes. -/
theorem State.jump_links (s : State) (n : Nat) (rd : RegIdx) (a : Word) :
    LinksTo s (s.jump n rd a) a rd (s.pc + BitVec.ofNat 32 n) where
  result r := by
    unfold State.jump State.setReg State.retireTo
    rw [State.mapHart_mapHart, State.reg_mapHart, Hart.reg_setReg,
      Hart.reg_congr (h := s.hart) (h' := s.hart.retireTo a n []) rfl]
    rfl
  pc := by unfold State.jump State.setReg State.retireTo; simp
  counted := by
    unfold State.jump State.setReg State.retireTo
    rw [State.mapHart_mapHart, State.hart_mapHart]
    exact (Hart.retireTo_counted s.hart a n []).congr (by simp)
  memory _ := rfl
  rest := by
    unfold OnlyRegisters State.jump State.setReg State.retireTo
    rw [State.mapHart_mapHart, State.hart_mapHart]
    apply State.mapHart_congr
    unfold Hart.setReg
    split <;> rfl

/-- A branch goes to its target or to the next instruction. -/
theorem State.branch_goes (s : State) (n : Nat) (b : Bool) (o : Word) :
    GoesTo s (s.branch n b o) (if b then s.pc + o else s.pc + BitVec.ofNat 32 n) := by
  cases b
  · exact State.retire_goes s n [24]
  · exact State.retireTo_goes s _ n [24, 26]

/-! ## Traps -/

/-- An exception goes to the base of `mtvec`, Direct or Vectored (60_exceptions.md R671). -/
theorem trapVector_exception (v c : Word) (h : c.getLsbD 31 = false) : trapVector v c = v &&& 0xFFFFFFFC := by
  simp only [trapVector, h, Bool.and_false, Bool.false_eq_true, if_false]

/-- Everything that taking an exception does. -/
theorem State.exception_traps (s : State) (c : Cause) (v : Word) (e : List Nat) (h : c.mcause.getLsbD 31 = false) :
    Traps s (s.exception c v e) c v where
  mepc := by simp [State.exception, Hart.exception, Hart.enterTrap, State.pc]
  mcause := by simp [State.exception, Hart.exception, Hart.enterTrap]
  mscause := by simp [State.exception, Hart.exception, Hart.enterTrap]
  mtval := by simp [State.exception, Hart.exception, Hart.enterTrap]
  mpie := by simp [State.exception, Hart.exception, Hart.enterTrap]
  mie := by simp [State.exception, Hart.exception, Hart.enterTrap]
  pc := by
    simp only [State.exception, State.pc_mapHart, Hart.exception, Hart.enterTrap]
    exact trapVector_exception _ _ h
  reservation := by simp [State.exception, Hart.exception, Hart.enterTrap]
  registers r := by
    simp only [State.exception, State.reg_mapHart]
    exact Hart.reg_congr (by simp [Hart.exception]) r
  memory _ := rfl
  minstret := by simp [State.exception, Hart.exception, Hart.enterTrap]
  others := by simp [State.exception, Hart.exception, Hart.enterTrap]
  mcycle := by simp [State.exception, Hart.exception, Hart.enterTrap]
  rest := by
    simp only [State.exception, State.hart_mapHart]
    apply State.mapHart_congr
    simp only [Hart.exception, Hart.enterTrap, Hart.count]
    split <;> rfl

/-- Every cause of R650 that an instruction raises is an exception, not an interrupt. -/
theorem State.accessFault_cause (s : State) (w : Bool) (b a : Word) (n : Nat) (c : Cause)
    (h : s.accessFault w b a n = some c) : c.mcause.getLsbD 31 = false := by
  simp only [State.accessFault] at h
  cases w <;> simp only [misalignedCode, accessFaultCode, if_true, if_false, Bool.false_eq_true] at h <;>
    (repeat' split at h) <;> simp_all <;> (subst h; decide)

/-- The same for atomics. -/
theorem State.atomicFault_cause (s : State) (w : Bool) (a : Word) (c : Cause)
    (h : s.atomicFault w a = some c) : c.mcause.getLsbD 31 = false := by
  simp only [State.atomicFault] at h
  cases w <;> simp only [misalignedCode, accessFaultCode, if_true, if_false, Bool.false_eq_true] at h <;>
    (repeat' split at h) <;> simp_all <;> (subst h; decide)

end Sys2Proof.Machine
end

