-- ==== Sys2Proof/Laws/Bus.lean ====
section
/-! SUPPORT. What the operations of Machine/Bus.lean can do, said once: performing a store, draining a buffer, and what a hart
sees through its buffer. -/

namespace Sys2Proof.Machine

/-! ## Performing stores -/

/-- A store that reaches the bus: memory changes, or the error is captured. -/
theorem State.performStore_cases (h : HartId) (s : State) (p : PendingStore) :
    (s.busAnswers .write p.addr.toNat p.size = true ∧
      s.performStore h p = { s with mem := memWriteN s.mem p.addr p.data p.size }) ∨
    (s.busAnswers .write p.addr.toNat p.size = false ∧ s.performStore h p = s.busError h .store p.target) := by
  unfold State.performStore
  cases s.busAnswers .write p.addr.toNat p.size <;> simp

/-- What a bus error captures. -/
theorem State.busError_nmi (s : State) (h : HartId) (k : BusNmi) (a : Word) :
    ((s.busError h k a).hartAt h).nmi = (s.hartAt h).nmi.capture k a := by
  unfold State.busError
  rw [State.hartAt_mapHartAt_same]

/-- A bus error changes `nmi` of the hart only. -/
theorem State.busError_frame (s : State) (h : HartId) (k : BusNmi) (a : Word) :
    s.busError h k a = s.mapHartAt h fun x => { x with nmi := ((s.busError h k a).hartAt h).nmi } := by
  rw [State.busError_nmi]
  cases h <;> rfl

/-- An access error while nothing is captured. -/
theorem NmiRegs.capture_first (n : NmiRegs) (k : BusNmi) (a : Word) (h : n.locked = false) :
    n.capture k a = { n with mdseac := a, locked := true, bus := some k, loadNow := decide (k = .load) } := by
  unfold NmiRegs.capture
  rw [h]
  rfl

/-- A load error while an error is captured. -/
theorem NmiRegs.capture_load_locked (n : NmiRegs) (a : Word) (h : n.locked = true) : n.capture .load a = n := by
  unfold NmiRegs.capture
  rw [h]
  rfl

/-- The state with memory and one hart's `nmi` and `buffer` replaced: all that draining a buffer can change. -/
def State.afterDrain (s : State) (h : HartId) (m : List Host.Cell) (n : NmiRegs) (b : List PendingStore) : State :=
  State.mapHartAt { s with mem := m } h fun x => { x with nmi := n, buffer := b }

theorem State.afterDrain_afterDrain (s : State) (h : HartId) (m m' : List Host.Cell) (n n' : NmiRegs)
    (b b' : List PendingStore) :
    (s.afterDrain h m n b).afterDrain h m' n' b' = s.afterDrain h m' n' b' := by
  cases h <;> rfl

theorem State.afterDrain_self (s : State) (h : HartId) :
    s.afterDrain h s.mem (s.hartAt h).nmi (s.hartAt h).buffer = s := by cases h <;> rfl

@[simp] theorem State.afterDrain_mem (s : State) (h m n b) : (s.afterDrain h m n b).mem = m := rfl
@[simp] theorem State.afterDrain_cfg (s : State) (h m n b) : (s.afterDrain h m n b).cfg = s.cfg := rfl
@[simp] theorem State.afterDrain_cur (s : State) (h m n b) : (s.afterDrain h m n b).cur = s.cur := rfl
@[simp] theorem State.afterDrain_shared (s : State) (h m n b) : (s.afterDrain h m n b).shared = s.shared := rfl
@[simp] theorem State.afterDrain_env (s : State) (h m n b) : (s.afterDrain h m n b).env = s.env := rfl
@[simp] theorem State.afterDrain_pic (s : State) (h m n b) : (s.afterDrain h m n b).pic = s.pic := rfl
@[simp] theorem State.afterDrain_badWords (s : State) (h m n b) : (s.afterDrain h m n b).badWords = s.badWords := rfl
@[simp] theorem State.afterDrain_hartAt (s : State) (h m n b) :
    (s.afterDrain h m n b).hartAt h = { s.hartAt h with nmi := n, buffer := b } := by cases h <;> rfl
@[simp] theorem State.afterDrain_hartAt_other (s : State) (h m n b) :
    (s.afterDrain h m n b).hartAt h.other = s.hartAt h.other := by cases h <;> rfl

/-- Performing a store changes memory and `nmi` only. -/
theorem State.performStore_frame (h : HartId) (s : State) (p : PendingStore) :
    s.performStore h p =
      s.afterDrain h (s.performStore h p).mem ((s.performStore h p).hartAt h).nmi (s.hartAt h).buffer := by
  rcases State.performStore_cases h s p with ⟨-, e⟩ | ⟨-, e⟩
  · rw [e]
    cases h <;> rfl
  · rw [e, State.busError_frame]
    cases h <;> rfl

/-- Performing stores changes memory and `nmi` only. -/
theorem State.performStores_frame (h : HartId) (l : List PendingStore) (s : State) :
    l.foldl (State.performStore h) s =
      s.afterDrain h (l.foldl (State.performStore h) s).mem ((l.foldl (State.performStore h) s).hartAt h).nmi
        (s.hartAt h).buffer := by
  induction l generalizing s with
  | nil => exact (State.afterDrain_self s h).symm
  | cons p l ih =>
    rw [List.foldl_cons, ih, State.performStore_frame h s p, State.afterDrain_afterDrain]
    simp

/-- Draining changes memory, and the hart's `nmi` and buffer: the oldest `n` stores leave it. -/
theorem State.drain_frame (s : State) (h : HartId) (n : Nat) :
    s.drain h n =
      s.afterDrain h (s.drain h n).mem ((s.drain h n).hartAt h).nmi ((s.hartAt h).buffer.drop n) := by
  cases hb : (s.hartAt h).buffer with
  | nil =>
    have e : s.drain h n = s := by simp only [State.drain, hb]
    rw [e, List.drop_nil, ← hb, State.afterDrain_self]
  | cons p l =>
    have e : s.drain h n = State.mapHartAt (((p :: l).take n).foldl (State.performStore h) s) h
        fun x => { x with buffer := (p :: l).drop n } := by simp only [State.drain, hb]
    rw [e, State.performStores_frame]
    cases h <;> rfl

/-- A drained buffer is empty. -/
@[simp] theorem State.drainAll_buffer (s : State) (h : HartId) : ((s.drainAll h).hartAt h).buffer = [] := by
  rw [State.drainAll, State.drain_frame]
  simp

theorem State.drainAll_frame (s : State) (h : HartId) :
    s.drainAll h = s.afterDrain h (s.drainAll h).mem ((s.drainAll h).hartAt h).nmi [] := by
  have e := State.drain_frame s h (s.hartAt h).buffer.length
  rw [List.drop_length] at e
  exact e

/-- An empty buffer drains without effect. -/
theorem State.drain_nil (s : State) (h : HartId) (n : Nat) (hb : (s.hartAt h).buffer = []) : s.drain h n = s := by
  simp only [State.drain, hb]

@[simp] theorem State.drain_cfg (s : State) (h n) : (s.drain h n).cfg = s.cfg := by rw [State.drain_frame]; rfl
@[simp] theorem State.drain_cur (s : State) (h n) : (s.drain h n).cur = s.cur := by rw [State.drain_frame]; rfl
@[simp] theorem State.drain_shared (s : State) (h n) : (s.drain h n).shared = s.shared := by rw [State.drain_frame]; rfl
@[simp] theorem State.drain_env (s : State) (h n) : (s.drain h n).env = s.env := by rw [State.drain_frame]; rfl
@[simp] theorem State.drain_badWords (s : State) (h n) : (s.drain h n).badWords = s.badWords := by
  rw [State.drain_frame]; rfl
@[simp] theorem State.drainAll_cfg (s : State) (h) : (s.drainAll h).cfg = s.cfg := State.drain_cfg s h _
@[simp] theorem State.drainAll_cur (s : State) (h) : (s.drainAll h).cur = s.cur := State.drain_cur s h _
@[simp] theorem State.drainAll_shared (s : State) (h) : (s.drainAll h).shared = s.shared := State.drain_shared s h _
@[simp] theorem State.drainAll_env (s : State) (h) : (s.drainAll h).env = s.env := State.drain_env s h _
@[simp] theorem State.drainAll_badWords (s : State) (h) : (s.drainAll h).badWords = s.badWords :=
  State.drain_badWords s h _

/-- What draining leaves of the hart that drains. -/
theorem State.drainAll_hartAt (s : State) (h : HartId) :
    (s.drainAll h).hartAt h = { s.hartAt h with nmi := ((s.drainAll h).hartAt h).nmi, buffer := [] } := by
  conv_lhs => rw [State.drainAll_frame]
  simp

/-- Draining leaves the other hart alone. -/
@[simp] theorem State.drainAll_hartAt_other (s : State) (h : HartId) :
    (s.drainAll h).hartAt h.other = s.hartAt h.other := by
  rw [State.drainAll_frame]
  simp

/-! ## Draining into memory -/

/-- Memory after a list of stores, the oldest first. -/
def storesInto (m : List Host.Cell) (l : List PendingStore) : List Host.Cell :=
  l.foldl (fun m p => memWriteN m p.addr p.data p.size) m

/-- Stores that the platform answers with memory. -/
theorem State.performStores_ram (h : HartId) (l : List PendingStore) (s : State)
    (hr : ∀ p ∈ l, s.busAnswers .write p.addr.toNat p.size = true) :
    l.foldl (State.performStore h) s = { s with mem := storesInto s.mem l } := by
  induction l generalizing s with
  | nil => rfl
  | cons p l ih =>
    have hp := hr p (List.mem_cons_self ..)
    have e : s.performStore h p = { s with mem := memWriteN s.mem p.addr p.data p.size } := by
      unfold State.performStore
      rw [if_pos hp]
    rw [List.foldl_cons, e]
    exact ih { s with mem := memWriteN s.mem p.addr p.data p.size } fun q hq => hr q (List.mem_cons_of_mem _ hq)

/-- Draining a buffer whose stores the platform answers with memory. -/
theorem State.drainAll_ram (s : State) (h : HartId)
    (hr : s.BufferAnswered h) :
    s.drainAll h = s.afterDrain h (storesInto s.mem (s.hartAt h).buffer) (s.hartAt h).nmi [] := by
  unfold State.drainAll State.drain
  cases hb : (s.hartAt h).buffer with
  | nil =>
    show s = s.afterDrain h s.mem (s.hartAt h).nmi []
    rw [← hb, State.afterDrain_self]
  | cons p l =>
    unfold State.BufferAnswered at hr
    rw [hb] at hr
    simp only [List.take_length, List.drop_length]
    rw [State.performStores_ram h _ s hr]
    cases h <;> rfl

/-- The address of a byte that lies at an offset from `p`. -/
theorem addrAt_sub (p a : Word) : addrAt p (a - p).toNat = a.toNat := by
  unfold addrAt
  rw [BitVec.ofNat_toNat, BitVec.setWidth_eq, BitVec.add_comm, BitVec.sub_add_cancel]

/-- A store puts its bytes where it covers memory, and nothing elsewhere. -/
theorem memRead_store (m : List Host.Cell) (p : PendingStore) (a : Word) (hs : p.size ≤ 2 ^ 32) :
    memRead (memWriteN m p.addr p.data p.size) a.toNat =
      if p.covers a then p.byteAt a else memRead m a.toNat := by
  unfold PendingStore.covers PendingStore.byteAt
  by_cases hc : (a - p.addr).toNat < p.size
  · rw [if_pos (by simpa using hc), ← addrAt_sub p.addr a]
    exact memRead_memWriteN_inside m p.addr p.data p.size _ hc hs
  · rw [if_neg (by simpa using hc)]
    apply memRead_memWriteN_outside
    intro i hi he
    apply hc
    have : a = p.addr + BitVec.ofNat 32 i := BitVec.eq_of_toNat_eq he
    rw [this, BitVec.add_comm, BitVec.add_sub_cancel, BitVec.toNat_ofNat]
    exact lt_of_le_of_lt (Nat.mod_le _ _) hi

/-- Memory after stores: at each address the newest one that covers it. -/
theorem memRead_storesInto (m : List Host.Cell) (l : List PendingStore) (a : Word) (hs : ∀ p ∈ l, p.size ≤ 2 ^ 32) :
    memRead (storesInto m l) a.toNat =
      match newestAt a l with
      | some p => p.byteAt a
      | none => memRead m a.toNat := by
  induction l generalizing m with
  | nil => rfl
  | cons p l ih =>
    have e : storesInto m (p :: l) = storesInto (memWriteN m p.addr p.data p.size) l := rfl
    rw [e, ih _ fun q hq => hs q (List.mem_cons_of_mem _ hq), newestAt]
    cases newestAt a l with
    | some q => rfl
    | none =>
      rw [memRead_store m p a (hs p (List.mem_cons_self ..))]
      cases p.covers a <;> rfl

/-- A hart without waiting stores sees memory. -/
theorem State.viewByte_nil (s : State) (h : HartId) (a : Word) (hb : (s.hartAt h).buffer = []) :
    s.viewByte h a = memRead s.mem a.toNat := by
  unfold State.viewByte
  rw [hb]
  rfl

/-- What a hart sees when more stores wait. -/
theorem newestAt_append (a : Word) (l l' : List PendingStore) :
    newestAt a (l ++ l') =
      match newestAt a l' with
      | some q => some q
      | none => newestAt a l := by
  induction l with
  | nil => cases h : newestAt a l' <;> simp [newestAt, h]
  | cons q l ih =>
    rw [List.cons_append, newestAt, ih, newestAt]
    cases newestAt a l' <;> rfl

/-- The bytes that a store covers, seen from the address `k` bytes before it. -/
theorem PendingStore.covers_shift (p : PendingStore) (a x : Word) (k : Nat) (hp : p.addr = a + BitVec.ofNat 32 k)
    (hk : k + p.size ≤ 8) :
    p.covers x = (decide (k ≤ (x - a).toNat) && decide ((x - a).toNat < k + p.size)) ∧
      (k ≤ (x - a).toNat → (x - p.addr).toNat = (x - a).toNat - k) := by
  have e : x - p.addr = (x - a) - BitVec.ofNat 32 k := by rw [hp]; bv_omega
  unfold PendingStore.covers
  rw [e]
  generalize x - a = d
  refine ⟨?_, fun h => by bv_omega⟩
  rw [Bool.eq_iff_iff]
  simp only [Bool.and_eq_true, decide_eq_true_eq]
  constructor <;> intro h <;> bv_omega

/-- A byte of a shifted word. -/
theorem byteOf_shift (v : Word) (k i : Nat) : byteOf (v >>> (8 * k)) i = byteOf v (k + i) := by
  unfold byteOf
  apply BitVec.eq_of_getLsbD_eq
  intro j hj
  simp only [BitVec.getLsbD_extractLsb', BitVec.getLsbD_ushiftRight, hj, decide_true, Bool.true_and]
  congr 1
  omega

/-- What transactions one behind the other write at an address: the store's byte there, if it is one of theirs. -/
theorem newestAt_piecesFrom (a v x : Word) (se : Bool) (l : List Nat) (k : Nat) (hk : k + l.sum ≤ 8) :
    (newestAt x (piecesFrom a v se k l)).map (fun p : PendingStore => p.byteAt x) =
      if k ≤ (x - a).toNat ∧ (x - a).toNat < k + l.sum then some (byteOf v (x - a).toNat) else none := by
  induction l generalizing k with
  | nil => rw [if_neg (by simp)]; rfl
  | cons m l ih =>
    rw [List.sum_cons] at hk ⊢
    have e := ih (k + m) (by omega)
    rw [piecesFrom, newestAt]
    obtain ⟨hc, hb⟩ := PendingStore.covers_shift ⟨a + BitVec.ofNat 32 k, m, v >>> (8 * k), se, a⟩ a x k rfl
      (by show k + m ≤ 8; omega)
    rw [hc]
    cases hr : newestAt x (piecesFrom a v se (k + m) l) with
    | some q =>
      rw [hr] at e
      split at e
      · rename_i h
        rw [if_pos (show k ≤ (x - a).toNat ∧ (x - a).toNat < k + (m + l.sum) by omega)]
        exact e
      · cases e
    | none =>
      rw [hr] at e
      split at e
      · cases e
      · rename_i h
        by_cases hx : k ≤ (x - a).toNat ∧ (x - a).toNat < k + m
        · rw [if_pos (show k ≤ (x - a).toNat ∧ (x - a).toNat < k + (m + l.sum) by omega)]
          simp only [hx, decide_true, Bool.and_self, if_true, Option.map_some]
          unfold PendingStore.byteAt
          rw [hb hx.1, byteOf_shift]
          congr 2
          omega
        · rw [if_neg (show ¬(k ≤ (x - a).toNat ∧ (x - a).toNat < k + (m + l.sum)) by omega)]
          have hf : (decide (k ≤ (x - a).toNat) && decide ((x - a).toNat < k + m)) = false := by
            rw [← Bool.decide_and]
            exact decide_eq_false hx
          simp only [hf, Bool.false_eq_true, if_false, Option.map_none]

/-- The transactions of a store cover its bytes. -/
theorem storeCuts_sum (bus : BusType) (a n : Nat) : (storeCuts bus a n).sum = n := by
  unfold storeCuts
  split
  · simp
  cases bus
  · simp only [List.sum_cons, List.sum_nil]
    omega
  · simp

/-- What the transactions of a store write at an address: its byte there, if it is one of the bytes it stores. -/
theorem newestAt_storePieces (bus : BusType) (a v x : Word) (n : Nat) (se : Bool) (hn : n ≤ 8) :
    (newestAt x (storePieces bus a v n se)).map (fun p : PendingStore => p.byteAt x) =
      if (x - a).toNat < n then some (byteOf v (x - a).toNat) else none := by
  have e := newestAt_piecesFrom a v x se (storeCuts bus a.toNat n) 0 (by rw [storeCuts_sum]; omega)
  rw [storeCuts_sum] at e
  simpa only [storePieces, Nat.zero_add, Nat.zero_le, true_and] using e

/-- An aligned store is one transaction. -/
theorem storePieces_aligned (bus : BusType) (a v : Word) (n : Nat) (se : Bool) (h : a.toNat % n = 0) :
    storePieces bus a v n se = [⟨a, n, v, se, a⟩] := by
  simp [storePieces, storeCuts, h, piecesFrom]

/-- The newest store that covers an address is one of the list, and covers it. -/
theorem newestAt_mem (a : Word) (l : List PendingStore) (p : PendingStore) (h : newestAt a l = some p) :
    p ∈ l ∧ p.covers a = true := by
  induction l with
  | nil => cases h
  | cons q l ih =>
    rw [newestAt] at h
    cases hn : newestAt a l with
    | some r =>
      rw [hn] at h ih
      obtain ⟨h1, h2⟩ := ih h
      exact ⟨List.mem_cons_of_mem _ h1, h2⟩
    | none =>
      rw [hn] at h
      cases hc : q.covers a
      · rw [hc] at h
        cases h
      · rw [hc] at h
        cases h
        exact ⟨List.mem_cons_self .., hc⟩

/-- Draining into memory changes no byte as the hart sees it. -/
theorem State.memRead_drainAll (s : State) (h : HartId) (a : Word)
    (hr : s.BufferAnswered h)
    (hs : ∀ p ∈ (s.hartAt h).buffer, p.size ≤ 2 ^ 32) :
    memRead (s.drainAll h).mem a.toNat = s.viewByte h a := by
  rw [State.drainAll_ram s h hr, State.afterDrain_mem, memRead_storesInto _ _ _ hs]
  rfl

/-! ## The fence -/

/-- A fence drains the buffer and takes over the attributes of `mrac`. -/
theorem State.fenceOp_eq (s : State) (h : HartId) :
    s.fenceOp h = (s.drainAll h).mapHartAt h fun x => { x with seen := { x.seen with data := s.shared.mrac } } := rfl

@[simp] theorem State.fenceOp_mem (s : State) (h) : (s.fenceOp h).mem = (s.drainAll h).mem := rfl
@[simp] theorem State.fenceOp_cfg (s : State) (h) : (s.fenceOp h).cfg = s.cfg := State.drainAll_cfg s h
@[simp] theorem State.fenceOp_cur (s : State) (h) : (s.fenceOp h).cur = s.cur := State.drainAll_cur s h
@[simp] theorem State.fenceOp_shared (s : State) (h) : (s.fenceOp h).shared = s.shared := State.drainAll_shared s h
@[simp] theorem State.fenceOp_env (s : State) (h) : (s.fenceOp h).env = s.env := State.drainAll_env s h
@[simp] theorem State.fenceOp_badWords (s : State) (h) : (s.fenceOp h).badWords = s.badWords :=
  State.drainAll_badWords s h
@[simp] theorem State.fenceOp_buffer (s : State) (h : HartId) : ((s.fenceOp h).hartAt h).buffer = [] := by
  rw [State.fenceOp_eq, State.hartAt_mapHartAt_same]
  exact State.drainAll_buffer s h

/-- What a fence leaves of the hart. -/
theorem State.fenceOp_hartAt (s : State) (h : HartId) :
    (s.fenceOp h).hartAt h =
      { s.hartAt h with
        nmi := ((s.drainAll h).hartAt h).nmi, buffer := [], seen := { (s.hartAt h).seen with data := s.shared.mrac } } := by
  rw [State.fenceOp_eq, State.hartAt_mapHartAt_same, State.drainAll_hartAt]

/-- A fence leaves the other hart alone. -/
@[simp] theorem State.fenceOp_hartAt_other (s : State) (h : HartId) :
    (s.fenceOp h).hartAt h.other = s.hartAt h.other := by
  rw [State.fenceOp_eq, ← State.drainAll_hartAt_other s h]
  cases h <;> rfl

/-! ## The platform's memory -/

/-- What `busAccepts` says of an address. -/
theorem busAccepts_iff (c : Config) (u : BusUse) (a n : Nat) :
    busAccepts c u a n = true ↔ ∃ r ∈ c.ram, r.permits u = true ∧ r.base ≤ a ∧ a + n ≤ r.base + r.size := by
  simp [busAccepts, List.any_eq_true, and_assoc]

/-- The checks of a proper build that concern the platform's memory. -/
theorem configOk_ram {c : Config} (h : configOk c = true) (r : BusRam) (hr : r ∈ c.ram) :
    r.base + r.size ≤ 2 ^ 32 ∧ ∀ g ∈ coreRegions c, g * 2 ^ 28 + 2 ^ 28 ≤ r.base ∨ r.base + r.size ≤ g * 2 ^ 28 := by
  unfold configOk at h
  have h1 : c.ram.all (ramOk c) = true := by
    revert h
    generalize c.ram.all (ramOk c) = b
    cases b <;> simp
  have h2 := List.all_eq_true.mp h1 r hr
  unfold ramOk at h2
  simpa [apart, List.all_eq_true, and_assoc] using h2

/-- A request that the platform answers is one that some memory of it accepts. -/
theorem State.busAnswers_accepts {s : State} {u : BusUse} {a n : Nat} (h : s.busAnswers u a n = true) :
    busAccepts s.cfg u a n = true := by
  unfold State.busAnswers at h
  rw [Bool.and_eq_true] at h
  exact h.1

/-- The platform's answers depend on the build and on the bad words only. -/
theorem State.busAnswers_congr {s t : State} (e1 : t.cfg = s.cfg) (e2 : t.badWords = s.badWords) (u : BusUse) (a n : Nat) :
    t.busAnswers u a n = s.busAnswers u a n := by
  unfold State.busAnswers State.spoiled
  rw [e1, e2]

/-- An access that the platform answers with memory lies in the address space. -/
theorem busAccepts_size {c : Config} (h : configOk c = true) (u : BusUse) (a n : Nat) (hr : busAccepts c u a n = true) :
    a + n ≤ 2 ^ 32 := by
  obtain ⟨r, hm, -, -, h2⟩ := (busAccepts_iff c u a n).mp hr
  exact h2.trans (configOk_ram h r hm).1

/-- An access that the platform answers with memory lies in no region of the core's own. -/
theorem busAccepts_region {c : Config} (h : configOk c = true) (u : BusUse) (a n : Nat) (hr : busAccepts c u a n = true)
    (x : Nat) (h1 : a ≤ x) (h2 : x < a + n) : ∀ g ∈ coreRegions c, regionOf x ≠ g := by
  obtain ⟨r, hm, -, h3, h4⟩ := (busAccepts_iff c u a n).mp hr
  intro g hg he
  have := (configOk_ram h r hm).2 g hg
  unfold regionOf at he
  omega

end Sys2Proof.Machine
end

