-- ==== Sys2Proof/Laws/Access.lean ====
section
/-! SUPPORT. When a data access passes its checks, and what it then does: the operations of Machine/Access.lean. -/

namespace Sys2Proof.Machine

/-! ## The blocks of a proper build -/

theorem inBlock_iff (b n a : Nat) : inBlock b n a = true ↔ b ≤ a ∧ a < b + n := by
  simp [inBlock]

/-- A block lies inside its region. -/
theorem blockOk_end {offset kb : Nat} {kbs : List Nat} (h : blockOk offset kb kbs = true) :
    offset + kb * 1024 ≤ 2 ^ 28 := by
  unfold blockOk at h
  simp only [Bool.and_eq_true, decide_eq_true_eq] at h
  exact h.2

/-- What a proper build says of its blocks. -/
theorem configOk_blocks {c : Config} (h : configOk c = true) :
    (c.iccmEnable = true → c.iccmOffset + c.iccmKb * 1024 ≤ 2 ^ 28) ∧
    (c.dccmEnable = true → c.dccmOffset + c.dccmKb * 1024 ≤ 2 ^ 28) ∧
    c.picOffset + c.picKb * 1024 ≤ 2 ^ 28 ∧ 32 ≤ c.picKb ∧
    (c.dccmEnable = true → blockBase c.dccmRegion c.dccmOffset + c.dccmKb * 1024 ≤ picBase c ∨
      picBase c + c.picKb * 1024 ≤ blockBase c.dccmRegion c.dccmOffset) ∧
    (c.atomicEnable = true → c.dccmEnable = true) := by
  unfold configOk at h
  simp only [List.all_cons, Bool.and_eq_true, Bool.or_eq_true, Bool.not_eq_true'] at h
  obtain ⟨-, h1, h2, h3, -, -, -, h4, -, -, h5, -⟩ := h
  refine ⟨fun e => ?_, fun e => ?_, blockOk_end h3, ?_, fun e => ?_, fun e => ?_⟩
  · exact blockOk_end (h1.resolve_left (by simp [e]))
  · exact blockOk_end (h2.resolve_left (by simp [e]))
  · unfold blockOk at h3
    simp only [Bool.and_eq_true, List.contains_eq_mem, List.mem_cons, List.not_mem_nil, or_false, decide_eq_true_eq] at h3
    omega
  · have := h5.resolve_left (by simp [e])
    simpa [apart] using this
  · exact h4.resolve_left (by simp [e])

/-- An address of the DCCM: its block, its region, and the end of the address space. -/
theorem inDccm_iff {c : Config} (a : Nat) :
    inDccm c a = true ↔ c.dccmEnable = true ∧ blockBase c.dccmRegion c.dccmOffset ≤ a ∧
      a < blockBase c.dccmRegion c.dccmOffset + c.dccmKb * 1024 := by
  unfold inDccm
  rw [Bool.and_eq_true, inBlock_iff]

theorem inPic_iff {c : Config} (a : Nat) :
    inPic c a = true ↔ picBase c ≤ a ∧ a < picBase c + c.picKb * 1024 := by
  unfold inPic
  rw [inBlock_iff]

theorem inDccm_region {c : Config} (h : configOk c = true) {a : Nat} (ha : inDccm c a = true) :
    regionOf a = c.dccmRegion.toNat := by
  obtain ⟨e, h1, h2⟩ := (inDccm_iff a).mp ha
  have := (configOk_blocks h).2.1 e
  unfold blockBase at h1 h2
  unfold regionOf
  omega

theorem inPic_region {c : Config} (h : configOk c = true) {a : Nat} (ha : inPic c a = true) :
    regionOf a = c.picRegion.toNat := by
  obtain ⟨h1, h2⟩ := (inPic_iff a).mp ha
  have := (configOk_blocks h).2.2.1
  unfold picBase blockBase at h1 h2
  unfold regionOf
  omega

theorem inDccm_dRegion {c : Config} (h : configOk c = true) {a : Nat} (ha : inDccm c a = true) : dRegion c a = true := by
  unfold dRegion
  rw [inDccm_region h ha, ((inDccm_iff a).mp ha).1]
  simp

theorem inPic_dRegion {c : Config} (h : configOk c = true) {a : Nat} (ha : inPic c a = true) : dRegion c a = true := by
  unfold dRegion
  rw [inPic_region h ha]
  simp

/-- No address is both in the DCCM and a PIC register. -/
theorem inDccm_not_inPic {c : Config} (h : configOk c = true) {a : Nat} (ha : inDccm c a = true) : inPic c a = false := by
  obtain ⟨e, h1, h2⟩ := (inDccm_iff a).mp ha
  have := (configOk_blocks h).2.2.2.2.1 e
  rw [Bool.eq_false_iff]
  intro hp
  obtain ⟨h3, h4⟩ := (inPic_iff a).mp hp
  omega

/-- An address outside the core's data regions is none of the core's own. -/
theorem coreLocal_of_outside {c : Config} (h : configOk c = true) {a : Nat} (ha : dRegion c a = false) :
    inDccm c a = false ∧ inPic c a = false ∧ coreLocal c a = false := by
  have h1 : inDccm c a = false := by
    rw [Bool.eq_false_iff]
    intro e
    rw [inDccm_dRegion h e] at ha
    cases ha
  have h2 : inPic c a = false := by
    rw [Bool.eq_false_iff]
    intro e
    rw [inPic_dRegion h e] at ha
    cases ha
  exact ⟨h1, h2, by simp [coreLocal, h1, h2]⟩

/-- The platform's memory lies outside the core's data regions. -/
theorem busAccepts_outside {c : Config} (h : configOk c = true) {u : BusUse} {a n x : Nat}
    (hr : busAccepts c u a n = true) (h1 : a ≤ x) (h2 : x < a + n) : dRegion c x = false := by
  have hg := busAccepts_region h u a n hr x h1 h2
  unfold coreRegions at hg
  unfold dRegion
  cases hd : c.dccmEnable
  · simp only [Bool.false_and, Bool.false_or, beq_eq_false_iff_ne]
    exact hg _ (by simp)
  · simp only [Bool.true_and, Bool.or_eq_false_iff, beq_eq_false_iff_ne]
    exact ⟨hg _ (by simp [hd]), hg _ (by simp)⟩

/-! ## Accesses that pass their checks -/

/-- An address of a DCCM access does not wrap. -/
theorem addrAt_of_lt (a : Word) (k : Nat) (h : a.toNat + k < 2 ^ 32) : addrAt a k = a.toNat + k := by
  unfold addrAt
  rw [BitVec.toNat_add, BitVec.toNat_ofNat]
  omega

theorem DccmAccess.lt {s : State} {b a : Word} {n : Nat} (h : DccmAccess s b a n) (k : Nat) (hk : k < n) :
    a.toNat + k < 2 ^ 32 := by
  obtain ⟨e, -, h2⟩ := (inDccm_iff _).mp (h.inside k hk)
  have := (configOk_blocks h.build).2.1 e
  have hr := s.cfg.dccmRegion.isLt
  unfold blockBase at h2
  omega

/-- An access between words without an error has no ECC fault. -/
theorem State.eccFault_of_sound {s : State} {a n : Nat} (h0 : wordAddr a ∉ s.badWords) (h1 : wordAddr (a + n - 1) ∉ s.badWords)
    (w : Bool) : s.eccFault w a n = false := by
  have : s.badWords.any (onWord a n) = false := by
    rw [List.any_eq_false]
    intro x hx hb
    rcases Bool.or_eq_true _ _ ▸ hb with h | h <;> rw [beq_iff_eq] at h <;> subst h <;> contradiction
  simp [State.eccFault, this]

/-- A DCCM access passes every check of R300. -/
theorem DccmAccess.passes {s : State} {b a : Word} {n : Nat} (h : DccmAccess s b a n) (hn : 0 < n) (hn4 : n ≤ 4)
    (w : Bool) : s.accessFault w b a n = none := by
  have i0 := h.inside 0 hn
  have i1 := h.inside (n - 1) (by omega)
  have e0 : a.toNat + 0 = a.toNat := rfl
  have e1 : a.toNat + (n - 1) = a.toNat + n - 1 := by omega
  rw [e0] at i0
  rw [e1] at i1
  have b0 := h.sound 0 hn
  have b1 := h.sound (n - 1) (by omega)
  rw [e0] at b0
  rw [e1] at b1
  have r0 := inDccm_region h.build i0
  have r1 := inDccm_region h.build i1
  have p0 := inDccm_not_inPic h.build i0
  have d0 := inDccm_dRegion h.build i0
  have hb := h.base
  have c0 : coreLocal s.cfg a.toNat = true := by simp [coreLocal, i0]
  have ecc : s.eccFault w a.toNat n = false := State.eccFault_of_sound b0 b1 w
  simp only [State.accessFault, crossesRegion, r0, r1, d0, i0, i1, p0, hb, c0, ecc]
  simp

/-- A bus access passes every check of R300. -/
theorem BusAccess.passes {s : State} {b a : Word} {n : Nat} (h : BusAccess s b a n) (w : Bool) :
    s.accessFault w b a n = none := by
  obtain ⟨i0, p0, c0⟩ := coreLocal_of_outside h.build h.outside
  have hw := h.windows
  have hb := h.base
  have hr := h.region
  simp only [State.accessFault, crossesRegion, h.outside, i0, p0, c0, hb, hw, hr]
  cases hs : s.sideEffectAt s.cur a.toNat
  · simp
  · have := h.aligned hs
    simp [this]

/-- An atomic access passes every check of R310 and 42_a.md R461. -/
theorem AtomicAccess.passes {s : State} {a : Word} (h : AtomicAccess s a) (w : Bool) : s.atomicFault w a = none := by
  obtain ⟨e, h1, h2⟩ := (inDccm_iff _).mp h.inside
  have hb := (configOk_blocks h.build).2.1 e
  have ha := h.aligned
  have bad : wordAddr a.toNat = a.toNat := by unfold wordAddr; omega
  have bad3 : wordAddr (a.toNat + 3) = a.toNat := by unfold wordAddr; omega
  have ho : (blockBase s.cfg.dccmRegion s.cfg.dccmOffset) % 1024 = 0 := by
    have hc := h.build
    unfold configOk at hc
    simp only [List.all_cons, Bool.and_eq_true, Bool.or_eq_true, Bool.not_eq_true'] at hc
    obtain ⟨-, -, hd, -⟩ := hc
    have hd := hd.resolve_left (by simp [e])
    unfold blockOk blockAlign at hd
    simp only [Bool.and_eq_true, beq_iff_eq] at hd
    obtain ⟨⟨-, hd⟩, -⟩ := hd
    unfold blockBase
    split at hd
    · omega
    · have : s.cfg.dccmOffset % 1024 = 0 := by
        have := Nat.dvd_of_mod_eq_zero hd
        exact Nat.mod_eq_zero_of_dvd (dvd_trans (dvd_mul_left 1024 _) this)
      omega
  have i3 : inDccm s.cfg (a.toNat + 3) = true := by
    rw [inDccm_iff]
    refine ⟨e, by omega, ?_⟩
    have : (blockBase s.cfg.dccmRegion s.cfg.dccmOffset + s.cfg.dccmKb * 1024) % 4 = 0 := by omega
    omega
  have r0 := inDccm_region h.build h.inside
  have r3 := inDccm_region h.build i3
  have d0 := inDccm_dRegion h.build h.inside
  have ecc : s.eccFault false a.toNat 4 = false :=
    State.eccFault_of_sound (by rw [bad]; exact h.sound) (by rw [show a.toNat + 4 - 1 = a.toNat + 3 from rfl, bad3]; exact h.sound) _
  have e3 : a.toNat + 4 - 1 = a.toNat + 3 := rfl
  simp only [State.atomicFault, crossesRegion, e3, r0, r3, d0, i3, h.inside, ha, ecc]
  simp

/-- The atomics are built in where they are asked for (R310). -/
theorem AtomicAccess.built {s : State} {a : Word} (h : AtomicAccess s a) : atomicsBuilt s.cfg = true := by
  simp [atomicsBuilt, h.atomics, (configOk_blocks h.build).2.2.2.2.2 h.atomics]

/-- An aligned word of the PIC registers, reached from one of the core's own addresses, passes the checks of a load or store and is no
word of the DCCM (R180, R300). -/
theorem State.accessFault_pic (s : State) (w : Bool) (b a : Word) (off : Nat) (hc : configOk s.cfg = true)
    (hb : coreLocal s.cfg b.toNat = true) (ha : a.toNat = picBase s.cfg + off) (h4 : off % 4 = 0) (ho : off < 0x8000) :
    s.accessFault w b a 4 = none ∧ inDccm s.cfg a.toNat = false ∧ inPic s.cfg a.toNat = true := by
  have k := configOk_blocks hc
  have pa : picBase s.cfg % 4 = 0 := by
    have h : blockOk s.cfg.picOffset s.cfg.picKb [32, 64, 128, 256] = true := by
      unfold configOk at hc
      simp only [List.all_cons, Bool.and_eq_true] at hc
      exact hc.2.2.2.1
    unfold blockOk at h
    simp only [Bool.and_eq_true, List.contains_eq_mem, List.mem_cons, List.not_mem_nil, or_false, decide_eq_true_eq,
      beq_iff_eq] at h
    have h' := h.1.2
    unfold picBase blockBase
    rcases h.1.1 with e | e | e | e <;> rw [e] at h' <;> simp [blockAlign] at h' <;> omega
  have i0 : inPic s.cfg a.toNat = true := (inPic_iff _).mpr ⟨by omega, by omega⟩
  have i3 : inPic s.cfg (a.toNat + 4 - 1) = true := (inPic_iff _).mpr ⟨by omega, by omega⟩
  have d0 : inDccm s.cfg a.toNat = false := by
    rw [Bool.eq_false_iff]
    intro h
    rw [inDccm_not_inPic hc h] at i0
    cases i0
  have m4 : a.toNat % 4 = 0 := by omega
  have cl : coreLocal s.cfg a.toNat = true := by simp [coreLocal, i0]
  have cr : crossesRegion a.toNat 4 = false := by
    unfold crossesRegion
    rw [inPic_region hc i0, inPic_region hc i3]
    simp
  refine ⟨?_, d0, i0⟩
  unfold State.accessFault
  simp only [cr, inPic_dRegion hc i0, i0, i3, d0, hb, cl, m4]
  simp

/-! ## What an access does -/

/-- A read of the DCCM changes nothing. -/
theorem State.readChecked_dccm (s : State) (a : Word) (n : Nat) (h : inDccm s.cfg a.toNat = true) :
    s.readChecked a n = (some (BitVec.ofNat 32 (memReadN s.mem a n)), s) := by
  simp [State.readChecked, h]

/-- A read of a PIC register changes nothing. -/
theorem State.readChecked_pic (s : State) (a : Word) (n : Nat) (h : inDccm s.cfg a.toNat = false)
    (hp : inPic s.cfg a.toNat = true) :
    s.readChecked a n = (some (s.picRead s.cur (a.toNat - picBase s.cfg)), s) := by
  simp [State.readChecked, h, hp]

/-- Any other read goes to the bus. -/
theorem State.readChecked_bus (s : State) (a : Word) (n : Nat) (h : inDccm s.cfg a.toNat = false)
    (hp : inPic s.cfg a.toNat = false) : s.readChecked a n = s.busLoad s.cur a n := by
  simp [State.readChecked, h, hp]

/-- A load that got its value writes it, widened. -/
@[simp] theorem State.loadValue_some (s : State) (f : Word → Word) (v : Word) : s.loadValue f (some v) = f v := rfl

/-- A load that got an error response writes a free value. -/
@[simp] theorem State.loadValue_none (s : State) (f : Word → Word) :
    s.loadValue f none = freeLoadData s.env.fresh := rfl

/-- A load changes no more than draining the buffer and a late error can. -/
theorem State.readChecked_frame (s : State) (a : Word) (n : Nat) :
    ∃ m q b, (s.readChecked a n).2 = s.afterDrain s.cur m q b := by
  have self : ∃ m q b, s = s.afterDrain s.cur m q b := ⟨_, _, _, (State.afterDrain_self s s.cur).symm⟩
  have rd : ∀ (t : State) (e : Bool), (∃ m q b, t = s.afterDrain s.cur m q b) →
      ∃ m q b, (t.busRead s.cur a n e).2 = s.afterDrain s.cur m q b := by
    rintro t e ⟨m, q, b, rfl⟩
    simp only [State.busRead]
    generalize State.readAnswered _ _ _ _ = ram
    cases ram
    case true => exact ⟨m, q, b, rfl⟩
    case false =>
      simp only [Bool.false_eq_true, if_false]
      rw [State.busError_frame]
      exact ⟨m, (((s.afterDrain s.cur m q b).busError s.cur .load a).hartAt s.cur).nmi, b,
        State.mapHartAt_mapHartAt ..⟩
  have dr : ∃ m q b, s.drainAll s.cur = s.afterDrain s.cur m q b := ⟨_, _, _, State.drainAll_frame s s.cur⟩
  unfold State.readChecked
  split
  · exact self
  split
  · exact self
  simp only [State.busLoad]
  split
  · exact rd _ _ dr
  split
  · exact rd _ _ self
  split
  · exact self
  · exact rd _ _ dr

/-- The words that a store touches, byte by byte. -/
theorem onWord_iff {a n : Nat} (hn : 0 < n) (hn4 : n ≤ 4) (w : Nat) : onWord a n w = true ↔ ∃ k, k < n ∧ w = wordAddr (a + k) := by
  simp only [onWord, Bool.or_eq_true, beq_iff_eq, wordAddr]
  constructor
  · rintro (h | h)
    · exact ⟨0, hn, h⟩
    · exact ⟨n - 1, by omega, by rw [h]; congr 2; omega⟩
  · rintro ⟨k, hk, rfl⟩
    omega

/-- A store into closely-coupled memory leaves the error marks of the words that it does not touch, and no others (20_memory.md R267, R307). -/
theorem State.mem_ccmWrite_badWords (s : State) (a v : Word) {n : Nat} (hn : 0 < n) (hn4 : n ≤ 4) (w : Nat) :
    w ∈ (s.ccmWrite a v n).badWords ↔ w ∈ s.badWords ∧ ∀ k, k < n → w ≠ wordAddr (a.toNat + k) := by
  have h := onWord_iff (a := a.toNat) hn hn4 w
  simp only [State.ccmWrite, List.mem_filter, Bool.not_eq_true', ← Bool.not_eq_true, h]
  simp

/-- A store on sound words leaves every error mark. -/
theorem State.ccmWrite_badWords_of_sound (s : State) (a v : Word) {n : Nat} (hn : 0 < n) (hn4 : n ≤ 4)
    (sound : ∀ k, k < n → wordAddr (a.toNat + k) ∉ s.badWords) : (s.ccmWrite a v n).badWords = s.badWords := by
  refine List.filter_eq_self.2 fun w hw => ?_
  by_contra h
  obtain ⟨k, hk, rfl⟩ := (onWord_iff hn hn4 w).1 (by simpa using h)
  exact sound k hk hw

/-- What a store to the DCCM does to the error marks is what the write of memory does. -/
@[simp] theorem State.dccmStore_badWords (s : State) (a v : Word) (n : Nat) :
    (s.dccmStore a v n).badWords = (s.ccmWrite a v n).badWords := rfl

/-- What a store to the DCCM does to memory. -/
@[simp] theorem State.dccmStore_mem (s : State) (a v : Word) (n : Nat) :
    (s.dccmStore a v n).mem = memWriteN s.mem a v n := rfl

/-- A store to the DCCM leaves the executing hart alone. -/
@[simp] theorem State.dccmStore_hart (s : State) (a v : Word) (n : Nat) : (s.dccmStore a v n).hart = s.hart := by
  unfold State.dccmStore State.hart
  rcases s with ⟨_, c, _, _⟩
  cases c <;> rfl

/-- The other hart sees the store. -/
theorem State.dccmStore_other (s : State) (a v : Word) (n : Nat) :
    (s.dccmStore a v n).hartAt s.cur.other = (s.hartAt s.cur.other).seeStore a.toNat n := by
  unfold State.dccmStore
  rw [State.hartAt_mapHartAt_same]
  rfl

/-- A store changes no more of a hart that did not do it than its reservation. -/
theorem Hart.seeStore_frame (h : Hart) (a n : Nat) :
    h.seeStore a n = { h with reservation := (h.seeStore a n).reservation } := by
  unfold Hart.seeStore
  split
  · split <;> rfl
  · rfl

/-- What a store does to a reservation of a hart that did not do it. -/
theorem Hart.seeStore_reservation (h : Hart) (a n : Nat) :
    (h.seeStore a n).reservation =
      match h.reservation with
      | some w => if a < w.toNat + 4 ∧ w.toNat < a + n then none else some w
      | none => none := by
  unfold Hart.seeStore touchesWord
  cases hr : h.reservation with
  | none => exact hr
  | some w =>
    by_cases hc : a < w.toNat + 4 ∧ w.toNat < a + n
    · simp [hc]
    · have : ¬(decide (a < w.toNat + 4) && decide (w.toNat < a + n)) = true := by simpa using hc
      simp only [if_neg hc, if_neg this]
      exact hr

/-! ## PIC registers -/

/-- A change of source `k + 1`, which exists, replaces it. -/
theorem Pic.mapSource_succ (p : Pic) (k : Nat) (x : Source) (f : Source → Source) (h : p.sources[k]? = some x) :
    p.mapSource (k + 1) f = { p with sources := p.sources.set k (f x) } := by
  show { p with sources := p.sources.modify k f } = _
  congr 1
  apply List.ext_getElem?
  intro i
  rw [List.getElem?_modify, List.getElem?_set]
  by_cases hi : k = i
  · subst hi
    obtain ⟨hk, hx⟩ := List.getElem?_eq_some_iff.mp h
    simp [hk, hx]
  · simp [hi]

/-- Bit `y` of a word of pending bits (R184, R185). -/
theorem Pic.getLsbD_pendingWord (p : Pic) (n y : Nat) (shown : Source → Bool) (hy : y < 32) :
    (p.pendingWord n shown).getLsbD y = match p.source? (32 * n + y) with
      | some x => x.req && shown x
      | none => false := by
  let bit (z : Nat) : Bool := match p.source? (32 * n + z) with
    | some x => x.req && shown x
    | none => false
  let add (acc z : Nat) : Nat := match p.source? (32 * n + z) with
    | some x => if x.req && shown x then acc + 2 ^ z else acc
    | none => acc
  have add_eq (v z : Nat) : add v z = if bit z then v + 2 ^ z else v := by
    rcases hs : p.source? (32 * n + z) with _ | x <;> simp [add, bit, hs]
  have sum (m : Nat) : (List.range m).foldl add 0 < 2 ^ m ∧
      ∀ z, z < m → ((List.range m).foldl add 0).testBit z = bit z := by
    induction m with
    | zero => simp
    | succ m ih =>
      rw [List.range_succ, List.foldl_append, List.foldl_cons, List.foldl_nil, add_eq]
      generalize List.foldl _ 0 (List.range m) = v at ih ⊢
      have h2 : 2 ^ (m + 1) = 2 ^ m + 2 ^ m := by rw [Nat.pow_succ]; omega
      refine ⟨by split <;> omega, fun z hz => ?_⟩
      by_cases hzm : z = m
      · subst hzm
        cases bit z
        · simp [Nat.testBit_lt_two_pow ih.1]
        · rw [if_pos rfl, Nat.add_comm, Nat.testBit_two_pow_add_eq, Nat.testBit_lt_two_pow ih.1]
          rfl
      · have hl : z < m := by omega
        rw [← ih.2 z hl]
        split
        · rw [Nat.add_comm, Nat.testBit_two_pow_add_gt hl]
        · rfl
  unfold Pic.pendingWord
  rw [BitVec.getLsbD_ofNat]
  simp only [hy, decide_true, Bool.true_and]
  exact (sum 32).2 y hy

end Sys2Proof.Machine
end

