-- ==== Sys2Proof/Laws/Encode.lean ====
section
/-! SUPPORT. Words and their fields: what a field of a composed word reads as, and what the decoder does with the bytes of
a word or of a parcel. -/

namespace Sys2Proof

/-! ## The six fields of a word -/

section word32
variable (f7 : BitVec 7) (rs2 rs1 : BitVec 5) (f3 : BitVec 3) (rd : BitVec 5) (op : BitVec 7)

/-- A bit of a composed word is a bit of one of its fields. -/
theorem word32_bit (i : Nat) : (word32 f7 rs2 rs1 f3 rd op).getLsbD i =
    if i < 7 then op.getLsbD i else if i < 12 then rd.getLsbD (i - 7) else if i < 15 then f3.getLsbD (i - 12)
    else if i < 20 then rs1.getLsbD (i - 15) else if i < 25 then rs2.getLsbD (i - 20) else f7.getLsbD (i - 25) := by
  change BitVec.getLsbD (w := 7 + 5 + 5 + 3 + 5 + 7) (f7 ++ rs2 ++ rs1 ++ f3 ++ rd ++ op) i = _
  simp only [BitVec.getLsbD_append]
  split_ifs <;> first | rfl | omega

@[simp] theorem word32_f7 : (word32 f7 rs2 rs1 f3 rd op).extractLsb' 25 7 = f7 := by
  ext i hi
  simp only [BitVec.getElem_extractLsb', word32_bit]
  split_ifs <;> first | omega | simp [BitVec.getLsbD_eq_getElem, hi]

@[simp] theorem word32_rs2 : (word32 f7 rs2 rs1 f3 rd op).extractLsb' 20 5 = rs2 := by
  ext i hi
  simp only [BitVec.getElem_extractLsb', word32_bit]
  split_ifs <;> first | omega | simp [BitVec.getLsbD_eq_getElem, hi]

@[simp] theorem word32_rs1 : (word32 f7 rs2 rs1 f3 rd op).extractLsb' 15 5 = rs1 := by
  ext i hi
  simp only [BitVec.getElem_extractLsb', word32_bit]
  split_ifs <;> first | omega | simp [BitVec.getLsbD_eq_getElem, hi]

@[simp] theorem word32_f3 : (word32 f7 rs2 rs1 f3 rd op).extractLsb' 12 3 = f3 := by
  ext i hi
  simp only [BitVec.getElem_extractLsb', word32_bit]
  split_ifs <;> first | omega | simp [BitVec.getLsbD_eq_getElem, hi]

@[simp] theorem word32_rd : (word32 f7 rs2 rs1 f3 rd op).extractLsb' 7 5 = rd := by
  ext i hi
  simp only [BitVec.getElem_extractLsb', word32_bit]
  split_ifs <;> first | omega | simp [BitVec.getLsbD_eq_getElem, hi]

@[simp] theorem word32_op : (word32 f7 rs2 rs1 f3 rd op).extractLsb' 0 7 = op := by
  ext i hi
  simp only [BitVec.getElem_extractLsb', word32_bit]
  split_ifs <;> first | omega | simp [BitVec.getLsbD_eq_getElem, hi]

/-- The decoder sees the fields a word was composed of. -/
theorem decode32_word32 : decode32 (word32 f7 rs2 rs1 f3 rd op) = decodeFields f7 rs2 rs1 f3 rd op := by
  simp only [decode32, word32_f7, word32_rs2, word32_rs1, word32_f3, word32_rd, word32_op]

/-- The low two bits of a word are those of its opcode. -/
theorem word32_low : (word32 f7 rs2 rs1 f3 rd op).extractLsb' 0 2 = op.extractLsb' 0 2 := by
  ext i hi
  simp only [BitVec.getElem_extractLsb', word32_bit]
  split_ifs <;> first | omega | rfl

end word32

/-! ## The five fields of a parcel -/

section parcel16
variable (f3 : BitVec 3) (b : BitVec 1) (c d : BitVec 5) (op : BitVec 2)

/-- A bit of a composed parcel is a bit of one of its fields. -/
theorem parcel16_bit (i : Nat) : (parcel16 f3 b c d op).getLsbD i =
    if i < 2 then op.getLsbD i else if i < 7 then d.getLsbD (i - 2) else if i < 12 then c.getLsbD (i - 7)
    else if i < 13 then b.getLsbD (i - 12) else f3.getLsbD (i - 13) := by
  change BitVec.getLsbD (w := 3 + 1 + 5 + 5 + 2) (f3 ++ b ++ c ++ d ++ op) i = _
  simp only [BitVec.getLsbD_append]
  split_ifs <;> first | rfl | omega

@[simp] theorem parcel16_f3 : (parcel16 f3 b c d op).extractLsb' 13 3 = f3 := by
  ext i hi
  simp only [BitVec.getElem_extractLsb', parcel16_bit]
  split_ifs <;> first | omega | simp [BitVec.getLsbD_eq_getElem, hi]

@[simp] theorem parcel16_b : (parcel16 f3 b c d op).extractLsb' 12 1 = b := by
  ext i hi
  simp only [BitVec.getElem_extractLsb', parcel16_bit]
  split_ifs <;> first | omega | simp [BitVec.getLsbD_eq_getElem, hi]

@[simp] theorem parcel16_c : (parcel16 f3 b c d op).extractLsb' 7 5 = c := by
  ext i hi
  simp only [BitVec.getElem_extractLsb', parcel16_bit]
  split_ifs <;> first | omega | simp [BitVec.getLsbD_eq_getElem, hi]

@[simp] theorem parcel16_d : (parcel16 f3 b c d op).extractLsb' 2 5 = d := by
  ext i hi
  simp only [BitVec.getElem_extractLsb', parcel16_bit]
  split_ifs <;> first | omega | simp [BitVec.getLsbD_eq_getElem, hi]

@[simp] theorem parcel16_op : (parcel16 f3 b c d op).extractLsb' 0 2 = op := by
  ext i hi
  simp only [BitVec.getElem_extractLsb', parcel16_bit]
  split_ifs <;> first | omega | simp [BitVec.getLsbD_eq_getElem, hi]

/-- The decoder sees the fields a parcel was composed of. -/
theorem decode16_parcel16 : decode16 (parcel16 f3 b c d op) = decodeCFields f3 b c d op := by
  simp only [decode16, parcel16_f3, parcel16_b, parcel16_c, parcel16_d, parcel16_op]

end parcel16

/-! ## Bytes -/

/-- A bit of a parcel is a bit of one of its bytes. -/
theorem parcelOf_bit (a b : Byte) (i : Nat) :
    (parcelOf a b).getLsbD i = if i < 8 then a.getLsbD i else b.getLsbD (i - 8) := by
  change BitVec.getLsbD (w := 8 + 8) (b ++ a) i = _
  rw [BitVec.getLsbD_append]

/-- A parcel from its two bytes. -/
theorem parcelOf_bytes (p : BitVec 16) : parcelOf (p.extractLsb' 0 8) (p.extractLsb' 8 8) = p := by
  apply BitVec.eq_of_getLsbD_eq
  intro i hi
  simp only [parcelOf_bit, BitVec.getLsbD_extractLsb']
  split_ifs with h
  · simp [h]
  · simp [show i - 8 < 8 by omega, show 8 + (i - 8) = i by omega]

/-- The lower half of a word from its bytes. -/
theorem lowParcel_eq (w : BitVec 32) :
    parcelOf (w.extractLsb' 0 8) (w.extractLsb' 8 8) = w.extractLsb' 0 16 := by
  apply BitVec.eq_of_getLsbD_eq
  intro i hi
  simp only [parcelOf_bit, BitVec.getLsbD_extractLsb']
  split_ifs with h
  · simp [h, hi]
  · simp [hi, show i - 8 < 8 by omega, show 8 + (i - 8) = i by omega]

/-- The upper half of a word from its bytes. -/
theorem highParcel_eq (w : BitVec 32) :
    parcelOf (w.extractLsb' 16 8) (w.extractLsb' 24 8) = w.extractLsb' 16 16 := by
  apply BitVec.eq_of_getLsbD_eq
  intro i hi
  simp only [parcelOf_bit, BitVec.getLsbD_extractLsb']
  split_ifs with h
  · simp [h, hi]
  · simp [hi, show i - 8 < 8 by omega, show 24 + (i - 8) = 16 + i by omega]

/-- A word from its two halves. -/
theorem word_halves (w : BitVec 32) : w.extractLsb' 16 16 ++ w.extractLsb' 0 16 = w := by
  apply BitVec.eq_of_getLsbD_eq
  intro i hi
  simp only [BitVec.getLsbD_append, BitVec.getLsbD_extractLsb']
  split_ifs with h
  · simp [h]
  · simp [show i - 16 < 16 by omega, show 16 + (i - 16) = i by omega]

/-- The bytes of a word whose low bits are 11 decode as the word. -/
theorem decode_word (w : BitVec 32) (rest : List Byte) (i : Instr) (hw : w.extractLsb' 0 2 = 0b11#2)
    (h : decode32 w = some i) : decode ((Code.word w).bytes ++ rest) = .ok (i, rest) := by
  have hc : isCompressed (w.extractLsb' 0 16) = false := by
    have : (w.extractLsb' 0 16).extractLsb' 0 2 = 0b11#2 := by
      rw [← hw]
      ext i hi
      simp
    simp [isCompressed, this]
  simp only [Code.bytes, List.cons_append, List.nil_append, decode, lowParcel_eq, highParcel_eq, hc, word_halves, h]
  rfl

/-- The bytes of a parcel whose low bits are not 11 decode as the parcel. -/
theorem decode_half (p : BitVec 16) (rest : List Byte) (i : Instr) (hp : p.extractLsb' 0 2 ≠ 0b11#2)
    (h : decode16 p = some i) : decode ((Code.half p).bytes ++ rest) = .ok (i, rest) := by
  have hc : isCompressed p = true := by simp [isCompressed, hp]
  simp only [Code.bytes, List.cons_append, List.nil_append, decode, parcelOf_bytes, hc, h]
  rfl

end Sys2Proof
end

