-- ==== Sys2Proof/Laws/Invariant.lean ====
section
/-! SUPPORT. The operations of the machine keep the invariant of Safety.lean: one lemma per operation, for harts, for the shared
registers and for states. -/

namespace Sys2Proof.Machine

/-! ## Even addresses -/

/-- Bit 0 of a sum. -/
theorem even_add {a b : Word} (ha : a.getLsbD 0 = false) (hb : b.getLsbD 0 = false) : (a + b).getLsbD 0 = false := by
  rw [BitVec.getLsbD_add (by decide), ha, hb]
  simp [BitVec.carry, Nat.mod_one]

/-- A word with bit 0 cleared. -/
theorem even_and (a : Word) : (a &&& 0xFFFFFFFE).getLsbD 0 = false := by
  rw [BitVec.getLsbD_and]
  simp

/-- A word with bits 1 and 0 cleared. -/
theorem even_and4 (a : Word) : (a &&& 0xFFFFFFFC).getLsbD 0 = false := by
  rw [BitVec.getLsbD_and]
  simp

/-- An offset in steps of two bytes. -/
theorem even_offset {w : Nat} (imm : BitVec w) : ((imm ++ 0#1).signExtend 32).getLsbD 0 = false := by
  rw [BitVec.getLsbD_signExtend, BitVec.getLsbD_append]
  simp

/-- An address of 31 pins and a 0. -/
theorem even_pins (v : BitVec 31) : (v ++ 0#1 : Word).getLsbD 0 = false := by
  rw [BitVec.getLsbD_append]
  simp

/-- A trap handler's address. -/
theorem even_trapVector (v c : Word) : (trapVector v c).getLsbD 0 = false := by
  simp only [trapVector]
  split
  · exact even_add (even_and4 v) (by rw [BitVec.getLsbD_shiftLeft]; simp)
  · exact even_and4 v

/-! ## Harts -/

/-- The invariant of a hart looks at ten places only. -/
theorem Hart.Ok.congr {h h' : Hart} (o : h.Ok) (e1 : h'.pc.getLsbD 0 = false) (e2 : h'.trap.mepc.getLsbD 0 = false)
    (e3 : h'.dbg.dpc.getLsbD 0 = false) (e4 : h'.trap.mtvec = h.trap.mtvec) (e5 : h'.trap.mie = h.trap.mie)
    (e6 : h'.ctr.inhibit = h.ctr.inhibit) (e7 : h'.tim0.cascade = h.tim0.cascade)
    (e8 : h'.trig.tr1.chain = h.trig.tr1.chain) (e9 : h'.trig.tr3.chain = h.trig.tr3.chain) : h'.Ok where
  pc := e1
  mepc := e2
  dpc := e3
  mtvec := e4 ▸ o.mtvec
  mie := e5 ▸ o.mie
  inhibit := e6 ▸ o.inhibit
  cascade := e7 ▸ o.cascade
  chain1 := e8 ▸ o.chain1
  chain3 := e9 ▸ o.chain3

theorem Hart.Ok.count {h : Hart} (o : h.Ok) (e : List Nat) : (h.count e).Ok := by
  unfold Hart.count
  split
  · exact o.congr o.pc o.mepc o.dpc rfl rfl rfl rfl rfl rfl
  · exact o

theorem Hart.Ok.setReg {h : Hart} (o : h.Ok) (r : RegIdx) (v : Word) : (h.setReg r v).Ok := by
  unfold Hart.setReg
  split
  · exact o
  · exact o.congr o.pc o.mepc o.dpc rfl rfl rfl rfl rfl rfl

theorem Hart.Ok.retireTo {h : Hart} (o : h.Ok) (a : Word) (n : Nat) (e : List Nat) (ha : a.getLsbD 0 = false) :
    (h.retireTo a n e).Ok := by
  refine o.congr ha o.mepc o.dpc rfl rfl ?_ rfl rfl rfl
  unfold Hart.retireTo
  simp only
  split
  · exact Counters.commit_inhibit _ _ _
  · rfl

theorem Hart.Ok.retire {h : Hart} (o : h.Ok) (n : Nat) (e : List Nat) (hn : n % 2 = 0) : (h.retire n e).Ok := by
  refine o.retireTo _ n e (even_add o.pc ?_)
  rw [BitVec.getLsbD_ofNat]
  simp [Nat.testBit_zero, hn]

theorem Hart.Ok.enterTrap {h : Hart} (o : h.Ok) (p : Word) (c : Cause) (v t : Word) (ht : t.getLsbD 0 = false) :
    (h.enterTrap p c v t).Ok :=
  o.congr ht (even_and p) o.dpc rfl rfl rfl rfl rfl rfl

theorem Hart.Ok.exception {h : Hart} (o : h.Ok) (c : Cause) (v : Word) (e : List Nat) : (h.exception c v e).Ok :=
  (o.count _).enterTrap _ _ _ _ (even_trapVector _ _)

theorem Hart.Ok.interrupt {h : Hart} (o : h.Ok) (c t : Word) (e : List Nat) (ht : t.getLsbD 0 = false) :
    (h.interrupt c t e).Ok := (o.count _).enterTrap _ _ _ _ ht

theorem Hart.Ok.mret {h : Hart} (o : h.Ok) : h.mret.Ok :=
  o.congr (even_and _) o.mepc o.dpc rfl rfl rfl rfl rfl rfl

theorem Hart.Ok.clearReservation {h : Hart} (o : h.Ok) : h.clearReservation.Ok :=
  o.congr o.pc o.mepc o.dpc rfl rfl rfl rfl rfl rfl

theorem Hart.Ok.enterDebug {h : Hart} (o : h.Ok) (c : Config) (k : BitVec 3) (a : Word) (d : Bool) :
    (h.enterDebug c k a d).Ok :=
  o.congr o.pc o.mepc (even_and a) rfl rfl rfl rfl rfl rfl

theorem Hart.Ok.resume {h : Hart} (o : h.Ok) : h.resume.Ok :=
  o.congr o.dpc o.mepc o.dpc rfl rfl rfl rfl rfl rfl

theorem Hart.Ok.seeStore {h : Hart} (o : h.Ok) (a n : Nat) : (h.seeStore a n).Ok := by
  rw [Hart.seeStore_frame]
  exact o.congr o.pc o.mepc o.dpc rfl rfl rfl rfl rfl rfl

/-- Neither a tick nor a write of a counter changes the inhibit bits. -/
theorem Counters.set_inhibit (c : Counters) (i : CounterId) (v : DWord) : (c.set i v).inhibit = c.inhibit := by
  cases i with
  | cycle => rfl
  | hpm n => cases n <;> rfl

theorem Hart.tickCounters_inhibit (h : Hart) (i k f : Nat) : (h.tickCounters i k f).inhibit = h.ctr.inhibit := by
  unfold Hart.tickCounters
  split
  · rfl
  · split <;> rfl

theorem Counters.keepWritten_inhibit (c t : Counters) : (c.keepWritten t).inhibit = t.inhibit := by
  unfold Counters.keepWritten
  split
  · rfl
  · exact Counters.set_inhibit ..

theorem Hart.Ok.tick {h : Hart} (o : h.Ok) (i : Nat) (w : Bool) (k f : Nat) : (h.tick i w k f).Ok := by
  refine o.congr o.pc o.mepc o.dpc rfl rfl ?_ rfl rfl rfl
  exact (Counters.keepWritten_inhibit ..).trans (Hart.tickCounters_inhibit ..)

theorem Hart.Ok.writeCounter {h : Hart} (o : h.Ok) (n k : Nat) (d : Bool) (i : CounterId) (f : DWord → DWord) :
    (h.writeCounter n k d i f).Ok := by
  unfold Hart.writeCounter
  split <;> exact o.congr o.pc o.mepc o.dpc rfl rfl (Counters.set_inhibit ..) rfl rfl rfl

theorem Hart.ticks_activity (h : Hart) (i : Nat) (w : Bool) (f n : Nat) : (h.ticks i w f n).activity = h.activity := by
  induction n with
  | zero => rfl
  | succ n ih =>
    rw [Hart.ticks]
    split
    · rfl
    · rw [Hart.tick_activity, ih]

theorem Hart.Ok.ticks {h : Hart} (o : h.Ok) (i : Nat) (w : Bool) (f n : Nat) : (h.ticks i w f n).Ok := by
  induction n with
  | zero => exact o
  | succ n ih =>
    rw [Hart.ticks]
    split
    · exact o
    · exact ih.tick i w n f

/-- A hart right after reset, in any activity. -/
theorem Hart.ok_resetWith (c : Config) (a : Activity) : (Hart.resetWith c a).Ok where
  pc := even_pins _
  mepc := show (0 : Word).getLsbD 0 = false by decide
  dpc := show (0 : Word).getLsbD 0 = false by decide
  mtvec := show (0 : Word).getLsbD 1 = false by decide
  mie := show (0 : Word) &&& 0x8FFFF777 = 0 by decide
  inhibit := show (0#7).getLsbD 1 = false by decide
  cascade := rfl
  chain1 := rfl
  chain3 := rfl

theorem Hart.ok_outOfReset (c : Config) (r q : Bool) : (Hart.outOfReset c r q).Ok := by
  have o := Hart.ok_resetWith c .running
  unfold Hart.outOfReset
  simp only
  split
  · exact o
  · exact o.congr o.pc o.mepc (even_pins _) rfl rfl rfl rfl rfl rfl

/-! ## Triggers -/

theorem Triggers.chains_writeControl (t : Triggers) (w : Word) (d : Bool) (h1 : t.tr1.chain = false)
    (h3 : t.tr3.chain = false) : (t.writeControl w d).tr1.chain = false ∧ (t.writeControl w d).tr3.chain = false := by
  have odd : ∀ (x : Trigger) (p n : Option Trigger), x.chain = false → (x.writeControl w d false p n).chain = false := by
    intro x p n hx
    have either : ∀ (c : Prop) [Decidable c] (y : Trigger), y.chain = false → (if c then x else y).chain = false := by
      intro c _ y hy
      split
      · exact hx
      · exact hy
    exact either _ _ (either _ _ (by simp))
  unfold Triggers.writeControl
  split
  · exact ⟨h1, h3⟩
  split
  · exact ⟨odd _ _ _ h1, h3⟩
  split
  · exact ⟨h1, h3⟩
  · exact ⟨h1, odd _ _ _ h3⟩

theorem Triggers.chains_writeValue (t : Triggers) (w : Word) (d : Bool) (h1 : t.tr1.chain = false)
    (h3 : t.tr3.chain = false) : (t.writeValue w d).tr1.chain = false ∧ (t.writeValue w d).tr3.chain = false := by
  unfold Triggers.writeValue
  split
  · exact ⟨h1, h3⟩
  simp only [Triggers.setSelected, Triggers.selected]
  split
  · exact ⟨h1, h3⟩
  split
  · exact ⟨h1, h3⟩
  split
  · exact ⟨h1, h3⟩
  · exact ⟨h1, h3⟩

/-! ## Shared registers -/

theorem legalMrac_legal (v : Word) : mracLegal (legalMrac v) := by
  unfold mracLegal legalMrac
  apply BitVec.eq_of_getLsbD_eq
  intro i hi
  simp only [BitVec.getLsbD_and, BitVec.getLsbD_not, BitVec.getLsbD_ushiftRight]
  interval_cases i <;> simp

theorem legalErrorCounter_threshold (v : Word) : ((legalErrorCounter v).extractLsb' 27 5).toNat ≤ 26 := by
  have e : ∀ (a : BitVec 5) (b : BitVec 27), ((a ++ b : Word).extractLsb' 27 5) = a := by
    intro a b
    apply BitVec.eq_of_getLsbD_eq
    intro i hi
    rw [BitVec.getLsbD_extractLsb', BitVec.getLsbD_append]
    simp [hi]
  unfold legalErrorCounter
  rw [e]
  split
  · decide
  · rename_i h
    rw [Bool.not_eq_true, BitVec.ult] at h
    simpa using h

theorem bumpErrors_threshold (v : Word) : (bumpErrors v).extractLsb' 27 5 = v.extractLsb' 27 5 := by
  unfold bumpErrors
  apply BitVec.eq_of_getLsbD_eq
  intro i hi
  rw [BitVec.getLsbD_extractLsb', BitVec.getLsbD_append]
  simp [hi]

theorem SharedRegs.ok_resetWith (c : Config) : (SharedRegs.resetWith c).Ok where
  mrac := show mracLegal 0 from rfl
  micect := show ((0 : Word).extractLsb' 27 5).toNat ≤ 26 by decide
  miccmect := show ((0 : Word).extractLsb' 27 5).toNat ≤ 26 by decide
  mdccmect := show ((0 : Word).extractLsb' 27 5).toNat ≤ 26 by decide
  mfdc := by
    unfold SharedRegs.resetWith
    cases c.bus <;> decide
  mnmipdel := show (1 : BitVec 2) ≠ 0 by decide

theorem writeNmiDel_nonzero (o : BitVec 2) (w : Word) (d : Bool) (h : o ≠ 0) : writeNmiDel o w d ≠ 0 := by
  unfold writeNmiDel
  intro e
  by_cases hv : w.setWidth 2 &&& (if d then 3 else 1) = 0
  · rw [if_pos hv] at e
    exact h e
  · rw [if_neg hv] at e
    exact hv e

/-! ## States -/

/-- One hart changed: the hart stays as it must be, and hart 1 stays idle until it is started. -/
theorem State.Inv.mapHartAt {s : State} (i : s.Inv) (k : HartId) (f : Hart → Hart)
    (hf : (s.hartAt k).Ok → (f (s.hartAt k)).Ok)
    (ha : k = .t1 → s.shared.start1 = false → (s.hartAt k).activity = .idle → (f (s.hartAt k)).activity = .idle) :
    (s.mapHartAt k f).Inv := by
  cases k
  · exact ⟨i.mem, hf i.hart0, i.hart1, i.shared, i.started⟩
  · exact ⟨i.mem, i.hart0, hf i.hart1, i.shared, fun h => ha rfl h (i.started h)⟩

/-- A hart of a state that holds the invariant. -/
theorem State.Inv.hartOk {s : State} (i : s.Inv) (k : HartId) : (s.hartAt k).Ok := by
  cases k
  · exact i.hart0
  · exact i.hart1

/-- A state that agrees on harts and shared registers, with a canonical memory. -/
theorem State.Inv.congr {s t : State} (i : s.Inv) (em : memWf t.mem = true) (eh : t.harts = s.harts)
    (es : t.shared = s.shared) : t.Inv where
  mem := em
  hart0 := by rw [eh]; exact i.hart0
  hart1 := by rw [eh]; exact i.hart1
  shared := by rw [es]; exact i.shared
  started := by rw [eh, es]; exact i.started

/-- The shared registers changed, `start1` kept. -/
theorem State.Inv.withShared {s : State} (i : s.Inv) (c : SharedRegs) (o : c.Ok) (e : c.start1 = s.shared.start1) :
    { s with shared := c }.Inv where
  mem := i.mem
  hart0 := i.hart0
  hart1 := i.hart1
  shared := o
  started := by
    intro h
    exact i.started (e ▸ h)

theorem State.Inv.afterDrain {s : State} (i : s.Inv) (k : HartId) (m : List Host.Cell) (hm : memWf m = true)
    (n : NmiRegs) (b : List PendingStore) : (s.afterDrain k m n b).Inv := by
  have j : { s with mem := m }.Inv := i.congr hm rfl rfl
  refine j.mapHartAt k _ (fun o => ?_) (fun _ _ e => e)
  exact o.congr o.pc o.mepc o.dpc rfl rfl rfl rfl rfl rfl

theorem State.performStores_wf (h : HartId) (l : List PendingStore) (s : State) (hm : memWf s.mem = true) :
    memWf (l.foldl (State.performStore h) s).mem = true := by
  induction l generalizing s with
  | nil => exact hm
  | cons p l ih =>
    rw [List.foldl_cons]
    apply ih
    rcases State.performStore_cases h s p with ⟨-, e⟩ | ⟨-, e⟩
    · rw [e]
      exact memWf_memWriteN _ _ _ _ hm
    · rw [e]
      exact hm

theorem State.drain_wf (s : State) (h : HartId) (n : Nat) (hm : memWf s.mem = true) : memWf (s.drain h n).mem = true := by
  cases hb : (s.hartAt h).buffer with
  | nil => rwa [State.drain_nil s h n hb]
  | cons p l =>
    simp only [State.drain, hb]
    exact State.performStores_wf h _ s hm

theorem State.Inv.drain {s : State} (i : s.Inv) (k : HartId) (n : Nat) : (s.drain k n).Inv := by
  rw [State.drain_frame]
  exact i.afterDrain k _ (State.drain_wf s k n i.mem) _ _

theorem State.Inv.drainAll {s : State} (i : s.Inv) (k : HartId) : (s.drainAll k).Inv := i.drain k _

theorem State.Inv.fenceOp {s : State} (i : s.Inv) (k : HartId) : (s.fenceOp k).Inv := by
  refine (i.drainAll k).mapHartAt k _ (fun o => ?_) (fun _ _ e => e)
  exact o.congr o.pc o.mepc o.dpc rfl rfl rfl rfl rfl rfl

theorem State.Inv.fenceIOp {s : State} (i : s.Inv) (k : HartId) : (s.fenceIOp k).Inv := by
  have j : ((s.fenceOp k).mapHartAt k fun x => { x with seen := { x.seen with fetch := s.shared.mrac } }).Inv := by
    refine (i.fenceOp k).mapHartAt k _ (fun o => ?_) (fun _ _ e => e)
    exact o.congr o.pc o.mepc o.dpc rfl rfl rfl rfl rfl rfl
  exact j.congr j.mem rfl rfl

theorem State.Inv.busError {s : State} (i : s.Inv) (k : HartId) (b : BusNmi) (a : Word) : (s.busError k b a).Inv := by
  rw [State.busError_frame]
  refine i.mapHartAt k _ (fun o => ?_) (fun _ _ e => e)
  exact o.congr o.pc o.mepc o.dpc rfl rfl rfl rfl rfl rfl

theorem State.Inv.performStore {s : State} (i : s.Inv) (k : HartId) (p : PendingStore) : (s.performStore k p).Inv := by
  rcases State.performStore_cases k s p with ⟨-, e⟩ | ⟨-, e⟩
  · rw [e]
    exact i.congr (memWf_memWriteN _ _ _ _ i.mem) rfl rfl
  · rw [e]
    exact i.busError k _ _

theorem State.Inv.ccmWrite {s : State} (i : s.Inv) (a v : Word) (n : Nat) : (s.ccmWrite a v n).Inv :=
  i.congr (memWf_memWriteN _ _ _ _ i.mem) rfl rfl

theorem State.Inv.seeStore {s : State} (i : s.Inv) (k : HartId) (a n : Nat) :
    (s.mapHartAt k fun x => x.seeStore a n).Inv := by
  refine i.mapHartAt k _ (fun o => o.seeStore a n) (fun _ _ e => ?_)
  rw [Hart.seeStore_frame]
  exact e

theorem State.Inv.dccmStore {s : State} (i : s.Inv) (a v : Word) (n : Nat) : (s.dccmStore a v n).Inv :=
  (i.ccmWrite a v n).seeStore _ _ _

theorem State.Inv.picWrite {s : State} (i : s.Inv) (o : Nat) (v : Word) : (s.picWrite o v).Inv :=
  i.congr i.mem rfl rfl

theorem State.Inv.busStore {s : State} (i : s.Inv) (k : HartId) (a v : Word) (n : Nat) : (s.busStore k a v n).Inv := by
  refine i.mapHartAt k _ (fun o => ?_) (fun _ _ e => e)
  exact o.congr o.pc o.mepc o.dpc rfl rfl rfl rfl rfl rfl

theorem State.Inv.writeChecked {s : State} (i : s.Inv) (a v : Word) (n : Nat) : (s.writeChecked a v n).Inv := by
  unfold State.writeChecked
  split
  · exact i.dccmStore a v n
  split
  · exact i.picWrite _ v
  · exact i.busStore s.cur a v n

theorem State.Inv.busRead {s : State} (i : s.Inv) (k : HartId) (a : Word) (n : Nat) (e : Bool) :
    (s.busRead k a n e).2.Inv := by
  simp only [State.busRead]
  generalize State.readAnswered _ _ _ _ = ram
  cases ram
  · exact i.busError k _ a
  · exact i

theorem State.Inv.readChecked {s : State} (i : s.Inv) (a : Word) (n : Nat) : (s.readChecked a n).2.Inv := by
  unfold State.readChecked
  split
  · exact i
  split
  · exact i
  simp only [State.busLoad]
  split
  · exact (i.drainAll _).busRead _ _ _ _
  split
  · exact i.busRead _ _ _ _
  split
  · exact i
  · exact (i.drainAll _).busRead _ _ _ _

/-! ## The hart that acts -/

/-- Hart `k` may act: hart 1 only once it has been started. -/
def State.mayAct (s : State) (k : HartId) : Prop := k = .t1 → s.shared.start1 = true

/-- A hart of a state with the invariant that is not idle may act. -/
theorem State.Inv.mayAct {s : State} (i : s.Inv) (k : HartId) (h : (s.hartAt k).activity ≠ .idle) : s.mayAct k := by
  rintro rfl
  by_contra hn
  exact h (i.started (by simpa using hn))

/-- A hart that may act changed, in any way that keeps it as it must be. -/
theorem State.Inv.onHart {s : State} (i : s.Inv) {k : HartId} (m : s.mayAct k) (f : Hart → Hart)
    (hf : (s.hartAt k).Ok → (f (s.hartAt k)).Ok) : (s.mapHartAt k f).Inv :=
  i.mapHartAt k f hf fun e n => by rw [m e] at n; cases n

/-- The same for the executing hart. -/
theorem State.Inv.onCur {s : State} (i : s.Inv) (m : s.mayAct s.cur) (f : Hart → Hart) (hf : s.hart.Ok → (f s.hart).Ok) :
    (s.mapHart f).Inv := i.onHart m f hf

theorem State.Inv.setReg {s : State} (i : s.Inv) (m : s.mayAct s.cur) (r : RegIdx) (v : Word) : (s.setReg r v).Inv :=
  i.onCur m _ fun o => o.setReg r v

theorem State.Inv.retireTo {s : State} (i : s.Inv) (m : s.mayAct s.cur) (a : Word) (n : Nat) (e : List Nat)
    (ha : a.getLsbD 0 = false) : (s.retireTo a n e).Inv := i.onCur m _ fun o => o.retireTo a n e ha

theorem State.Inv.retire {s : State} (i : s.Inv) (m : s.mayAct s.cur) (n : Nat) (e : List Nat) (hn : n % 2 = 0) :
    (s.retire n e).Inv := i.onCur m _ fun o => o.retire n e hn

theorem State.Inv.writeBack {s : State} (i : s.Inv) (m : s.mayAct s.cur) (n : Nat) (e : List Nat) (hn : n % 2 = 0)
    (r : RegIdx) (v : Word) : (s.writeBack n e r v).Inv := i.onCur m _ fun o => (o.retire n e hn).setReg r v

theorem State.Inv.exception {s : State} (i : s.Inv) (m : s.mayAct s.cur) (c : Cause) (v : Word) (e : List Nat) :
    (s.exception c v e).Inv := i.onCur m _ fun o => o.exception c v e

theorem State.Inv.jump {s : State} (i : s.Inv) (m : s.mayAct s.cur) (n : Nat) (r : RegIdx) (a : Word)
    (ha : a.getLsbD 0 = false) : (s.jump n r a).Inv := by
  unfold State.jump
  exact (i.retireTo m a n [] ha).setReg m r _

theorem State.Inv.branch {s : State} (i : s.Inv) (m : s.mayAct s.cur) (n : Nat) (hn : n % 2 = 0) (b : Bool) (o : Word)
    (ho : o.getLsbD 0 = false) : (s.branch n b o).Inv := by
  cases b
  · exact i.retire m n [24] hn
  · exact i.retireTo m _ n [24, 26] (even_add (i.hartOk s.cur).pc ho)

theorem State.Inv.loadInstr {s : State} (i : s.Inv) (m : s.mayAct s.cur) (n : Nat) (hn : n % 2 = 0) (r : RegIdx)
    (b o : Word) (k : Nat) (f : Word → Word) : (s.loadInstr n r b o k f).Inv := by
  simp only [State.loadInstr]
  split
  · exact i.exception m _ _ _
  · have e : (s.readChecked (b + o) k).2.cur = s.cur ∧ (s.readChecked (b + o) k).2.shared = s.shared := by
      obtain ⟨x, y, z, h⟩ := State.readChecked_frame s (b + o) k
      rw [h]
      exact ⟨rfl, rfl⟩
    refine (i.readChecked _ _).writeBack ?_ n _ hn r _
    unfold State.mayAct
    rw [e.1, e.2]
    exact m

/-- A store leaves the executing hart and the shared registers. -/
theorem State.writeChecked_cur (s : State) (a v : Word) (n : Nat) :
    (s.writeChecked a v n).cur = s.cur ∧ (s.writeChecked a v n).shared = s.shared := by
  unfold State.writeChecked
  split
  · exact ⟨State.dccmStore_cur .., State.dccmStore_shared ..⟩
  split
  · exact ⟨State.picWrite_cur .., State.picWrite_shared ..⟩
  · exact ⟨State.busStore_cur .., State.busStore_shared ..⟩

theorem State.Inv.storeInstr {s : State} (i : s.Inv) (m : s.mayAct s.cur) (n : Nat) (hn : n % 2 = 0) (b o v : Word)
    (k : Nat) : (s.storeInstr n b o v k).Inv := by
  simp only [State.storeInstr]
  split
  · exact i.exception m _ _ _
  · refine (i.writeChecked _ _ _).retire ?_ n _ hn
    unfold State.mayAct
    rw [(State.writeChecked_cur s _ v k).1, (State.writeChecked_cur s _ v k).2]
    exact m

theorem State.mayAct_drainAll {s : State} (m : s.mayAct s.cur) : (s.drainAll s.cur).mayAct (s.drainAll s.cur).cur := by
  unfold State.mayAct
  rw [State.drainAll_cur, State.drainAll_shared]
  exact m

theorem State.mayAct_fenceOp {s : State} (m : s.mayAct s.cur) : (s.fenceOp s.cur).mayAct (s.fenceOp s.cur).cur :=
  State.mayAct_drainAll m

theorem State.Inv.amoInstr {s : State} (i : s.Inv) (m : s.mayAct s.cur) (b : Word) (rd r1 r2 : RegIdx)
    (f : Word → Word → Word) : (s.amoInstr b rd r1 r2 f).Inv := by
  have md := State.mayAct_fenceOp m
  simp only [State.amoInstr, State.implicitFence]
  split
  · split
    · exact (i.fenceOp _).exception md _ _ _
    · exact ((i.fenceOp _).dccmStore _ _ _).writeBack md _ _ rfl _ _
  · exact i.exception m _ _ _

theorem State.Inv.lrInstr {s : State} (i : s.Inv) (m : s.mayAct s.cur) (b : Word) (rd r1 : RegIdx) :
    (s.lrInstr b rd r1).Inv := by
  have md := State.mayAct_fenceOp m
  simp only [State.lrInstr, State.implicitFence]
  split
  · split
    · exact (i.fenceOp _).exception md _ _ _
    · refine State.Inv.writeBack ((i.fenceOp _).onCur md _ fun o => ?_) md _ _ rfl _ _
      exact o.congr o.pc o.mepc o.dpc rfl rfl rfl rfl rfl rfl
  · exact i.exception m _ _ _

theorem State.Inv.scInstr {s : State} (i : s.Inv) (m : s.mayAct s.cur) (b : Word) (rd r1 r2 : RegIdx) :
    (s.scInstr b rd r1 r2).Inv := by
  have md : s.implicitFence.mayAct s.implicitFence.cur := State.mayAct_fenceOp m
  have id : s.implicitFence.Inv := i.fenceOp _
  have clear : ∀ t : State, t.Inv → t.mayAct t.cur → (t.mapHart Hart.clearReservation).Inv :=
    fun _ it mt => it.onCur mt _ Hart.Ok.clearReservation
  simp only [State.scInstr]
  split
  · split
    · exact id.exception md _ _ _
    · split
      · exact (clear _ (id.dccmStore _ _ _) md).writeBack md _ _ rfl _ _
      · exact (clear _ id md).writeBack md _ _ rfl _ _
  · exact i.exception m _ _ _

theorem State.Inv.breakpoint {s : State} (i : s.Inv) (m : s.mayAct s.cur) : s.breakpoint.Inv := by
  unfold State.breakpoint
  split
  · refine (i.drainAll _).onCur (State.mayAct_drainAll m) _ fun o => Hart.Ok.enterDebug ?_ _ _ _ _
    unfold Hart.countBreakpoint
    split
    · exact o
    · exact o.count _
  · exact i.exception m _ _ _

/-! ## CSR writes -/

theorem State.Inv.enterSleep {s : State} (i : s.Inv) {k : HartId} (m : s.mayAct k) : (s.enterSleep k).Inv := by
  refine (i.drainAll k).onHart (k := k) ?_ _ fun o => ?_
  · unfold State.mayAct
    rw [State.drainAll_shared]
    exact m
  · exact o.congr o.pc o.mepc o.dpc rfl rfl rfl rfl rfl rfl

theorem State.Inv.writeMpmc {s : State} (i : s.Inv) {k : HartId} (m : s.mayAct k) (w : Word) (d : Bool) :
    (s.writeMpmc k w d).Inv := by
  have j : (s.mapHartAt k fun x => { x with power := { x.power with haltie := w.getLsbD 1 } }).Inv :=
    i.onHart m _ fun o => o.congr o.pc o.mepc o.dpc rfl rfl rfl rfl rfl rfl
  simp only [State.writeMpmc]
  split
  · refine State.Inv.enterSleep (j.onHart m _ fun o => ?_) m
    exact o.congr o.pc o.mepc o.dpc rfl rfl rfl rfl rfl rfl
  · exact j

theorem State.Inv.writeDmst {s : State} (i : s.Inv) (k : HartId) (w : Word) : (s.writeDmst k w).Inv := by
  unfold State.writeDmst
  split
  · exact i.fenceIOp k
  split
  · exact i.fenceOp k
  · exact i

theorem State.Inv.startHart1 {s : State} (i : s.Inv) : s.startHart1.Inv := by
  unfold State.startHart1
  split
  · refine ⟨i.mem, i.hart0, ?_, ⟨i.shared.mrac, i.shared.micect, i.shared.miccmect, i.shared.mdccmect, i.shared.mfdc,
      i.shared.mnmipdel⟩, fun h => by cases h⟩
    have o := Hart.ok_outOfReset s.cfg s.cfg.mpcResetRun1 (s.dm.haltReq.get .t1)
    exact o.congr o.pc o.mepc o.dpc rfl rfl rfl rfl rfl rfl
  · exact i

theorem State.Inv.captureClaim {s : State} (i : s.Inv) {k : HartId} (m : s.mayAct k) : (s.captureClaim k).Inv := by
  simp only [State.captureClaim]
  exact i.onHart m _ fun o => o.congr o.pc o.mepc o.dpc rfl rfl rfl rfl rfl rfl

theorem State.Inv.diagWrite {s : State} (i : s.Inv) (k : HartId) : (s.diagWrite k).Inv := by
  simp only [State.diagWrite]
  split
  · exact i
  split <;> exact i.congr i.mem rfl rfl

theorem State.Inv.diagRead {s : State} (i : s.Inv) {k : HartId} (m : s.mayAct k) : (s.diagRead k).Inv := by
  simp only [State.diagRead]
  split
  · exact i
  split
  · exact i.onHart m _ fun o => o.congr o.pc o.mepc o.dpc rfl rfl rfl rfl rfl rfl
  · exact i.onHart m _ fun o => o.congr o.pc o.mepc o.dpc rfl rfl rfl rfl rfl rfl

/-- A write to any CSR keeps the invariant. -/
theorem State.Inv.csrWrite {s : State} (i : s.Inv) {k : HartId} (m : s.mayAct k) (r : Csr) (w : Word) (d : Bool) :
    (s.csrWrite k r w d).Inv := by
  have o := i.shared
  have keep : ∀ f : Hart → Hart, ((s.hartAt k).Ok → (f (s.hartAt k)).Ok) → (s.mapHartAt k f).Inv := i.onHart m
  cases r <;> simp only [State.csrWrite]
  case mie =>
    refine keep _ fun o => ?_
    refine ⟨o.pc, o.mepc, o.dpc, o.mtvec, ?_, o.inhibit, o.cascade, o.chain1, o.chain3⟩
    show w &&& 0x70000888 &&& 0x8FFFF777 = 0
    rw [BitVec.and_assoc]
    exact BitVec.and_zero
  case mtvec =>
    refine keep _ fun o => ?_
    refine ⟨o.pc, o.mepc, o.dpc, ?_, o.mie, o.inhibit, o.cascade, o.chain1, o.chain3⟩
    show (w &&& 0xFFFFFFFD).getLsbD 1 = false
    rw [BitVec.getLsbD_and]
    simp
  case mcountinhibit =>
    refine keep _ fun o => ?_
    refine ⟨o.pc, o.mepc, o.dpc, o.mtvec, o.mie, ?_, o.cascade, o.chain1, o.chain3⟩
    show (w.setWidth 7 &&& 0x7D).getLsbD 1 = false
    rw [BitVec.getLsbD_and]
    simp
  case mhpmevent n =>
    refine keep _ fun o => ?_
    cases n <;> exact o.congr o.pc o.mepc o.dpc rfl rfl rfl rfl rfl rfl
  case mcycle => exact keep _ fun o => o.writeCounter _ _ _ _ _
  case mcycleh => exact keep _ fun o => o.writeCounter _ _ _ _ _
  case mhpmcounter n => exact keep _ fun o => o.writeCounter _ _ _ _ _
  case mhpmcounterh n => exact keep _ fun o => o.writeCounter _ _ _ _ _
  case mepc => exact keep _ fun o => o.congr o.pc (even_and w) o.dpc rfl rfl rfl rfl rfl rfl
  case dpc => exact keep _ fun o => o.congr o.pc o.mepc (even_and w) rfl rfl rfl rfl rfl rfl
  case tdata1 =>
    refine keep _ fun o => ?_
    have c := Triggers.chains_writeControl (s.hartAt k).trig w d o.chain1 o.chain3
    exact ⟨o.pc, o.mepc, o.dpc, o.mtvec, o.mie, o.inhibit, o.cascade, c.1, c.2⟩
  case tdata2 =>
    refine keep _ fun o => ?_
    have c := Triggers.chains_writeValue (s.hartAt k).trig w d o.chain1 o.chain3
    exact ⟨o.pc, o.mepc, o.dpc, o.mtvec, o.mie, o.inhibit, o.cascade, c.1, c.2⟩
  case mcpc =>
    refine keep _ fun o => ?_
    unfold Hart.writeMcpc
    split
    · exact o
    · exact o.congr o.pc o.mepc o.dpc rfl rfl rfl rfl rfl rfl
  case mitctl0 =>
    refine keep _ fun o => ?_
    exact ⟨o.pc, o.mepc, o.dpc, o.mtvec, o.mie, o.inhibit, by simp [Timer.writeCtl], o.chain1, o.chain3⟩
  case dmst => exact i.writeDmst k w
  case mpmc => exact i.writeMpmc m w d
  case dicago =>
    split
    · exact i.diagWrite k
    · exact i
  case mhartstart =>
    split
    · exact i.startHart1
    · exact i
  case mrac =>
    exact i.withShared _ ⟨legalMrac_legal w, o.micect, o.miccmect, o.mdccmect, o.mfdc, o.mnmipdel⟩ rfl
  case micect =>
    exact i.withShared _ ⟨o.mrac, legalErrorCounter_threshold w, o.miccmect, o.mdccmect, o.mfdc, o.mnmipdel⟩ rfl
  case miccmect =>
    exact i.withShared _ ⟨o.mrac, o.micect, legalErrorCounter_threshold w, o.mdccmect, o.mfdc, o.mnmipdel⟩ rfl
  case mdccmect =>
    exact i.withShared _ ⟨o.mrac, o.micect, o.miccmect, legalErrorCounter_threshold w, o.mfdc, o.mnmipdel⟩ rfl
  case mfdc =>
    refine i.withShared _ ⟨o.mrac, o.micect, o.miccmect, o.mdccmect, ?_, o.mnmipdel⟩ rfl
    show w &&& 0x00071D4D &&& 0xFFF8E2B2 = 0
    rw [BitVec.and_assoc]
    exact BitVec.and_zero
  case mnmipdel =>
    exact i.withShared _
      ⟨o.mrac, o.micect, o.miccmect, o.mdccmect, o.mfdc, writeNmiDel_nonzero _ w _ o.mnmipdel⟩ rfl
  case mfdht => exact i.withShared _ ⟨o.mrac, o.micect, o.miccmect, o.mdccmect, o.mfdc, o.mnmipdel⟩ rfl
  case mcgc => exact i.withShared _ ⟨o.mrac, o.micect, o.miccmect, o.mdccmect, o.mfdc, o.mnmipdel⟩ rfl
  case meicpct => exact i.captureClaim m
  case misa => exact i
  case mip => exact i
  case zero => exact i
  case mvendorid => exact i
  case marchid => exact i
  case mimpid => exact i
  case mhartid => exact i
  case mdseac => exact i
  case mhartnum => exact i
  case meihap => exact i
  all_goals exact keep _ fun o => o.congr o.pc o.mepc o.dpc rfl rfl rfl rfl rfl rfl

/-- A CSR write leaves the executing hart the executing one; it may start hart 1, never stop it. -/
theorem State.csrWrite_cur (s : State) (k : HartId) (r : Csr) (w : Word) (d : Bool) :
    (s.csrWrite k r w d).cur = s.cur ∧ (s.shared.start1 = true → (s.csrWrite k r w d).shared.start1 = true) := by
  cases r
  case dmst =>
    simp only [State.csrWrite, State.writeDmst]
    split
    · simp [State.fenceIOp]
    · split <;> simp
  case mpmc =>
    simp only [State.csrWrite, State.writeMpmc]
    split
    · simp [State.enterSleep]
    · exact ⟨rfl, id⟩
  case dicago =>
    simp only [State.csrWrite, State.diagWrite]
    split
    · split
      · exact ⟨rfl, id⟩
      · split <;> exact ⟨rfl, id⟩
    · exact ⟨rfl, id⟩
  case mhartstart =>
    simp only [State.csrWrite, State.startHart1]
    split
    · split
      · exact ⟨rfl, fun _ => rfl⟩
      · exact ⟨rfl, id⟩
    · exact ⟨rfl, id⟩
  all_goals exact ⟨rfl, id⟩

theorem State.Inv.csrInstr {s : State} (i : s.Inv) (m : s.mayAct s.cur) (b : Word) (rd : RegIdx) (a : BitVec 12)
    (w : Bool) (f : Word → Word) : (s.csrInstr b rd a w f).Inv := by
  simp only [State.csrInstr]
  split
  · exact i.exception m _ _ _
  · rename_i r _
    have j := i.retire m 4 (csrEvents w rd) rfl
    split
    · have c := State.csrWrite_cur (s.retire 4 (csrEvents w rd)) s.cur r (f (s.csrRead s.cur r)) false
      refine (j.csrWrite m r _ false).setReg ?_ rd _
      unfold State.mayAct
      rw [c.1]
      exact fun e => c.2 (m e)
    · exact j.setReg m rd _

end Sys2Proof.Machine
end

