-- ==== Sys2Proof/Laws/PerInstr.lean ====
section
/-! SUPPORT. What holds of every instruction as syntax: its code is as long as its low two bits say (30_encoding.md
R361). -/

namespace Sys2Proof.Laws.LengthBits

/-- The encoding of `i` has a length that its low two bits tell: 11 for a word, something else for a parcel (R361). -/
def Statement (i : Instr) : Prop :=
  match encode i with
  | .half p => isCompressed p = true
  | .word w => w.extractLsb' 0 2 = 0b11#2

/-- A word whose opcode ends in 11. -/
theorem of_word32 {i : Instr} {f7 : BitVec 7} {rs2 rs1 : BitVec 5} {f3 : BitVec 3} {rd : BitVec 5} (op : BitVec 7)
    (h : encode i = .word (word32 f7 rs2 rs1 f3 rd op)) (ho : op.extractLsb' 0 2 = 0b11#2) : Statement i := by
  simp only [Statement, h, word32_low, ho]

/-- A parcel whose quadrant is not 11. -/
theorem of_parcel16 {i : Instr} {f3 : BitVec 3} {b : BitVec 1} {c d : BitVec 5} (op : BitVec 2)
    (h : encode i = .half (parcel16 f3 b c d op)) (ho : op ≠ 0b11#2) : Statement i := by
  simp only [Statement, h, isCompressed, parcel16_op]
  simpa using ho

theorem lui (rd : RegIdx) (imm : BitVec 20) : Statement (.lui rd imm) := of_word32 _ rfl (by decide)
theorem auipc (rd : RegIdx) (imm : BitVec 20) : Statement (.auipc rd imm) := of_word32 _ rfl (by decide)
theorem jal (rd : RegIdx) (imm : BitVec 20) : Statement (.jal rd imm) := of_word32 _ rfl (by decide)
theorem jalr (rd : RegIdx) (rs1 : RegIdx) (imm : BitVec 12) : Statement (.jalr rd rs1 imm) := of_word32 _ rfl (by decide)
theorem beq (rs1 : RegIdx) (rs2 : RegIdx) (imm : BitVec 12) : Statement (.beq rs1 rs2 imm) := of_word32 _ rfl (by decide)
theorem bne (rs1 : RegIdx) (rs2 : RegIdx) (imm : BitVec 12) : Statement (.bne rs1 rs2 imm) := of_word32 _ rfl (by decide)
theorem blt (rs1 : RegIdx) (rs2 : RegIdx) (imm : BitVec 12) : Statement (.blt rs1 rs2 imm) := of_word32 _ rfl (by decide)
theorem bge (rs1 : RegIdx) (rs2 : RegIdx) (imm : BitVec 12) : Statement (.bge rs1 rs2 imm) := of_word32 _ rfl (by decide)
theorem bltu (rs1 : RegIdx) (rs2 : RegIdx) (imm : BitVec 12) : Statement (.bltu rs1 rs2 imm) := of_word32 _ rfl (by decide)
theorem bgeu (rs1 : RegIdx) (rs2 : RegIdx) (imm : BitVec 12) : Statement (.bgeu rs1 rs2 imm) := of_word32 _ rfl (by decide)
theorem lb (rd : RegIdx) (rs1 : RegIdx) (imm : BitVec 12) : Statement (.lb rd rs1 imm) := of_word32 _ rfl (by decide)
theorem lh (rd : RegIdx) (rs1 : RegIdx) (imm : BitVec 12) : Statement (.lh rd rs1 imm) := of_word32 _ rfl (by decide)
theorem lw (rd : RegIdx) (rs1 : RegIdx) (imm : BitVec 12) : Statement (.lw rd rs1 imm) := of_word32 _ rfl (by decide)
theorem lbu (rd : RegIdx) (rs1 : RegIdx) (imm : BitVec 12) : Statement (.lbu rd rs1 imm) := of_word32 _ rfl (by decide)
theorem lhu (rd : RegIdx) (rs1 : RegIdx) (imm : BitVec 12) : Statement (.lhu rd rs1 imm) := of_word32 _ rfl (by decide)
theorem sb (rs2 : RegIdx) (rs1 : RegIdx) (imm : BitVec 12) : Statement (.sb rs2 rs1 imm) := of_word32 _ rfl (by decide)
theorem sh (rs2 : RegIdx) (rs1 : RegIdx) (imm : BitVec 12) : Statement (.sh rs2 rs1 imm) := of_word32 _ rfl (by decide)
theorem sw (rs2 : RegIdx) (rs1 : RegIdx) (imm : BitVec 12) : Statement (.sw rs2 rs1 imm) := of_word32 _ rfl (by decide)
theorem addi (rd : RegIdx) (rs1 : RegIdx) (imm : BitVec 12) : Statement (.addi rd rs1 imm) := of_word32 _ rfl (by decide)
theorem slti (rd : RegIdx) (rs1 : RegIdx) (imm : BitVec 12) : Statement (.slti rd rs1 imm) := of_word32 _ rfl (by decide)
theorem sltiu (rd : RegIdx) (rs1 : RegIdx) (imm : BitVec 12) : Statement (.sltiu rd rs1 imm) := of_word32 _ rfl (by decide)
theorem xori (rd : RegIdx) (rs1 : RegIdx) (imm : BitVec 12) : Statement (.xori rd rs1 imm) := of_word32 _ rfl (by decide)
theorem ori (rd : RegIdx) (rs1 : RegIdx) (imm : BitVec 12) : Statement (.ori rd rs1 imm) := of_word32 _ rfl (by decide)
theorem andi (rd : RegIdx) (rs1 : RegIdx) (imm : BitVec 12) : Statement (.andi rd rs1 imm) := of_word32 _ rfl (by decide)
theorem slli (rd : RegIdx) (rs1 : RegIdx) (shamt : BitVec 5) : Statement (.slli rd rs1 shamt) := of_word32 _ rfl (by decide)
theorem srli (rd : RegIdx) (rs1 : RegIdx) (shamt : BitVec 5) : Statement (.srli rd rs1 shamt) := of_word32 _ rfl (by decide)
theorem srai (rd : RegIdx) (rs1 : RegIdx) (shamt : BitVec 5) : Statement (.srai rd rs1 shamt) := of_word32 _ rfl (by decide)
theorem add (rd : RegIdx) (rs1 : RegIdx) (rs2 : RegIdx) : Statement (.add rd rs1 rs2) := of_word32 _ rfl (by decide)
theorem sub (rd : RegIdx) (rs1 : RegIdx) (rs2 : RegIdx) : Statement (.sub rd rs1 rs2) := of_word32 _ rfl (by decide)
theorem sll (rd : RegIdx) (rs1 : RegIdx) (rs2 : RegIdx) : Statement (.sll rd rs1 rs2) := of_word32 _ rfl (by decide)
theorem slt (rd : RegIdx) (rs1 : RegIdx) (rs2 : RegIdx) : Statement (.slt rd rs1 rs2) := of_word32 _ rfl (by decide)
theorem sltu (rd : RegIdx) (rs1 : RegIdx) (rs2 : RegIdx) : Statement (.sltu rd rs1 rs2) := of_word32 _ rfl (by decide)
theorem xor (rd : RegIdx) (rs1 : RegIdx) (rs2 : RegIdx) : Statement (.xor rd rs1 rs2) := of_word32 _ rfl (by decide)
theorem srl (rd : RegIdx) (rs1 : RegIdx) (rs2 : RegIdx) : Statement (.srl rd rs1 rs2) := of_word32 _ rfl (by decide)
theorem sra (rd : RegIdx) (rs1 : RegIdx) (rs2 : RegIdx) : Statement (.sra rd rs1 rs2) := of_word32 _ rfl (by decide)
theorem or (rd : RegIdx) (rs1 : RegIdx) (rs2 : RegIdx) : Statement (.or rd rs1 rs2) := of_word32 _ rfl (by decide)
theorem and (rd : RegIdx) (rs1 : RegIdx) (rs2 : RegIdx) : Statement (.and rd rs1 rs2) := of_word32 _ rfl (by decide)
theorem fence (fm : BitVec 4) (pred : BitVec 4) (succ : BitVec 4) (rs1 : RegIdx) (rd : RegIdx) : Statement (.fence fm pred succ rs1 rd) := of_word32 _ rfl (by decide)
theorem ecall : Statement (.ecall) := of_word32 _ rfl (by decide)
theorem ebreak : Statement (.ebreak) := of_word32 _ rfl (by decide)
theorem mul (rd : RegIdx) (rs1 : RegIdx) (rs2 : RegIdx) : Statement (.mul rd rs1 rs2) := of_word32 _ rfl (by decide)
theorem mulh (rd : RegIdx) (rs1 : RegIdx) (rs2 : RegIdx) : Statement (.mulh rd rs1 rs2) := of_word32 _ rfl (by decide)
theorem mulhsu (rd : RegIdx) (rs1 : RegIdx) (rs2 : RegIdx) : Statement (.mulhsu rd rs1 rs2) := of_word32 _ rfl (by decide)
theorem mulhu (rd : RegIdx) (rs1 : RegIdx) (rs2 : RegIdx) : Statement (.mulhu rd rs1 rs2) := of_word32 _ rfl (by decide)
theorem div (rd : RegIdx) (rs1 : RegIdx) (rs2 : RegIdx) : Statement (.div rd rs1 rs2) := of_word32 _ rfl (by decide)
theorem divu (rd : RegIdx) (rs1 : RegIdx) (rs2 : RegIdx) : Statement (.divu rd rs1 rs2) := of_word32 _ rfl (by decide)
theorem rem (rd : RegIdx) (rs1 : RegIdx) (rs2 : RegIdx) : Statement (.rem rd rs1 rs2) := of_word32 _ rfl (by decide)
theorem remu (rd : RegIdx) (rs1 : RegIdx) (rs2 : RegIdx) : Statement (.remu rd rs1 rs2) := of_word32 _ rfl (by decide)
theorem lrW (rd : RegIdx) (rs1 : RegIdx) (aq : Bool) (rl : Bool) : Statement (.lrW rd rs1 aq rl) := of_word32 _ rfl (by decide)
theorem scW (rd : RegIdx) (rs1 : RegIdx) (rs2 : RegIdx) (aq : Bool) (rl : Bool) : Statement (.scW rd rs1 rs2 aq rl) := of_word32 _ rfl (by decide)
theorem amoswapW (rd : RegIdx) (rs1 : RegIdx) (rs2 : RegIdx) (aq : Bool) (rl : Bool) : Statement (.amoswapW rd rs1 rs2 aq rl) := of_word32 _ rfl (by decide)
theorem amoaddW (rd : RegIdx) (rs1 : RegIdx) (rs2 : RegIdx) (aq : Bool) (rl : Bool) : Statement (.amoaddW rd rs1 rs2 aq rl) := of_word32 _ rfl (by decide)
theorem amoxorW (rd : RegIdx) (rs1 : RegIdx) (rs2 : RegIdx) (aq : Bool) (rl : Bool) : Statement (.amoxorW rd rs1 rs2 aq rl) := of_word32 _ rfl (by decide)
theorem amoandW (rd : RegIdx) (rs1 : RegIdx) (rs2 : RegIdx) (aq : Bool) (rl : Bool) : Statement (.amoandW rd rs1 rs2 aq rl) := of_word32 _ rfl (by decide)
theorem amoorW (rd : RegIdx) (rs1 : RegIdx) (rs2 : RegIdx) (aq : Bool) (rl : Bool) : Statement (.amoorW rd rs1 rs2 aq rl) := of_word32 _ rfl (by decide)
theorem amominW (rd : RegIdx) (rs1 : RegIdx) (rs2 : RegIdx) (aq : Bool) (rl : Bool) : Statement (.amominW rd rs1 rs2 aq rl) := of_word32 _ rfl (by decide)
theorem amomaxW (rd : RegIdx) (rs1 : RegIdx) (rs2 : RegIdx) (aq : Bool) (rl : Bool) : Statement (.amomaxW rd rs1 rs2 aq rl) := of_word32 _ rfl (by decide)
theorem amominuW (rd : RegIdx) (rs1 : RegIdx) (rs2 : RegIdx) (aq : Bool) (rl : Bool) : Statement (.amominuW rd rs1 rs2 aq rl) := of_word32 _ rfl (by decide)
theorem amomaxuW (rd : RegIdx) (rs1 : RegIdx) (rs2 : RegIdx) (aq : Bool) (rl : Bool) : Statement (.amomaxuW rd rs1 rs2 aq rl) := of_word32 _ rfl (by decide)
theorem csrrw (rd : RegIdx) (csr : BitVec 12) (rs1 : RegIdx) : Statement (.csrrw rd csr rs1) := of_word32 _ rfl (by decide)
theorem csrrs (rd : RegIdx) (csr : BitVec 12) (rs1 : RegIdx) : Statement (.csrrs rd csr rs1) := of_word32 _ rfl (by decide)
theorem csrrc (rd : RegIdx) (csr : BitVec 12) (rs1 : RegIdx) : Statement (.csrrc rd csr rs1) := of_word32 _ rfl (by decide)
theorem csrrwi (rd : RegIdx) (csr : BitVec 12) (uimm : BitVec 5) : Statement (.csrrwi rd csr uimm) := of_word32 _ rfl (by decide)
theorem csrrsi (rd : RegIdx) (csr : BitVec 12) (uimm : BitVec 5) : Statement (.csrrsi rd csr uimm) := of_word32 _ rfl (by decide)
theorem csrrci (rd : RegIdx) (csr : BitVec 12) (uimm : BitVec 5) : Statement (.csrrci rd csr uimm) := of_word32 _ rfl (by decide)
theorem fenceI (imm : BitVec 12) (rs1 : RegIdx) (rd : RegIdx) : Statement (.fenceI imm rs1 rd) := of_word32 _ rfl (by decide)
theorem mret : Statement (.mret) := of_word32 _ rfl (by decide)
theorem wfi : Statement (.wfi) := of_word32 _ rfl (by decide)
theorem sh1add (rd : RegIdx) (rs1 : RegIdx) (rs2 : RegIdx) : Statement (.sh1add rd rs1 rs2) := of_word32 _ rfl (by decide)
theorem sh2add (rd : RegIdx) (rs1 : RegIdx) (rs2 : RegIdx) : Statement (.sh2add rd rs1 rs2) := of_word32 _ rfl (by decide)
theorem sh3add (rd : RegIdx) (rs1 : RegIdx) (rs2 : RegIdx) : Statement (.sh3add rd rs1 rs2) := of_word32 _ rfl (by decide)
theorem clz (rd : RegIdx) (rs1 : RegIdx) : Statement (.clz rd rs1) := of_word32 _ rfl (by decide)
theorem ctz (rd : RegIdx) (rs1 : RegIdx) : Statement (.ctz rd rs1) := of_word32 _ rfl (by decide)
theorem cpop (rd : RegIdx) (rs1 : RegIdx) : Statement (.cpop rd rs1) := of_word32 _ rfl (by decide)
theorem min (rd : RegIdx) (rs1 : RegIdx) (rs2 : RegIdx) : Statement (.min rd rs1 rs2) := of_word32 _ rfl (by decide)
theorem minu (rd : RegIdx) (rs1 : RegIdx) (rs2 : RegIdx) : Statement (.minu rd rs1 rs2) := of_word32 _ rfl (by decide)
theorem max (rd : RegIdx) (rs1 : RegIdx) (rs2 : RegIdx) : Statement (.max rd rs1 rs2) := of_word32 _ rfl (by decide)
theorem maxu (rd : RegIdx) (rs1 : RegIdx) (rs2 : RegIdx) : Statement (.maxu rd rs1 rs2) := of_word32 _ rfl (by decide)
theorem sextB (rd : RegIdx) (rs1 : RegIdx) : Statement (.sextB rd rs1) := of_word32 _ rfl (by decide)
theorem sextH (rd : RegIdx) (rs1 : RegIdx) : Statement (.sextH rd rs1) := of_word32 _ rfl (by decide)
theorem zextH (rd : RegIdx) (rs1 : RegIdx) : Statement (.zextH rd rs1) := of_word32 _ rfl (by decide)
theorem andn (rd : RegIdx) (rs1 : RegIdx) (rs2 : RegIdx) : Statement (.andn rd rs1 rs2) := of_word32 _ rfl (by decide)
theorem orn (rd : RegIdx) (rs1 : RegIdx) (rs2 : RegIdx) : Statement (.orn rd rs1 rs2) := of_word32 _ rfl (by decide)
theorem xnor (rd : RegIdx) (rs1 : RegIdx) (rs2 : RegIdx) : Statement (.xnor rd rs1 rs2) := of_word32 _ rfl (by decide)
theorem rol (rd : RegIdx) (rs1 : RegIdx) (rs2 : RegIdx) : Statement (.rol rd rs1 rs2) := of_word32 _ rfl (by decide)
theorem ror (rd : RegIdx) (rs1 : RegIdx) (rs2 : RegIdx) : Statement (.ror rd rs1 rs2) := of_word32 _ rfl (by decide)
theorem rori (rd : RegIdx) (rs1 : RegIdx) (shamt : BitVec 5) : Statement (.rori rd rs1 shamt) := of_word32 _ rfl (by decide)
theorem rev8 (rd : RegIdx) (rs1 : RegIdx) : Statement (.rev8 rd rs1) := of_word32 _ rfl (by decide)
theorem orcB (rd : RegIdx) (rs1 : RegIdx) : Statement (.orcB rd rs1) := of_word32 _ rfl (by decide)
theorem clmul (rd : RegIdx) (rs1 : RegIdx) (rs2 : RegIdx) : Statement (.clmul rd rs1 rs2) := of_word32 _ rfl (by decide)
theorem clmulh (rd : RegIdx) (rs1 : RegIdx) (rs2 : RegIdx) : Statement (.clmulh rd rs1 rs2) := of_word32 _ rfl (by decide)
theorem clmulr (rd : RegIdx) (rs1 : RegIdx) (rs2 : RegIdx) : Statement (.clmulr rd rs1 rs2) := of_word32 _ rfl (by decide)
theorem bset (rd : RegIdx) (rs1 : RegIdx) (rs2 : RegIdx) : Statement (.bset rd rs1 rs2) := of_word32 _ rfl (by decide)
theorem bseti (rd : RegIdx) (rs1 : RegIdx) (shamt : BitVec 5) : Statement (.bseti rd rs1 shamt) := of_word32 _ rfl (by decide)
theorem bclr (rd : RegIdx) (rs1 : RegIdx) (rs2 : RegIdx) : Statement (.bclr rd rs1 rs2) := of_word32 _ rfl (by decide)
theorem bclri (rd : RegIdx) (rs1 : RegIdx) (shamt : BitVec 5) : Statement (.bclri rd rs1 shamt) := of_word32 _ rfl (by decide)
theorem binv (rd : RegIdx) (rs1 : RegIdx) (rs2 : RegIdx) : Statement (.binv rd rs1 rs2) := of_word32 _ rfl (by decide)
theorem binvi (rd : RegIdx) (rs1 : RegIdx) (shamt : BitVec 5) : Statement (.binvi rd rs1 shamt) := of_word32 _ rfl (by decide)
theorem bext (rd : RegIdx) (rs1 : RegIdx) (rs2 : RegIdx) : Statement (.bext rd rs1 rs2) := of_word32 _ rfl (by decide)
theorem bexti (rd : RegIdx) (rs1 : RegIdx) (shamt : BitVec 5) : Statement (.bexti rd rs1 shamt) := of_word32 _ rfl (by decide)
theorem bcompress (rd : RegIdx) (rs1 : RegIdx) (rs2 : RegIdx) : Statement (.bcompress rd rs1 rs2) := of_word32 _ rfl (by decide)
theorem bdecompress (rd : RegIdx) (rs1 : RegIdx) (rs2 : RegIdx) : Statement (.bdecompress rd rs1 rs2) := of_word32 _ rfl (by decide)
theorem pack (rd : RegIdx) (rs1 : RegIdx) (rs2 : RegIdx) : Statement (.pack rd rs1 rs2) := of_word32 _ rfl (by decide)
theorem packh (rd : RegIdx) (rs1 : RegIdx) (rs2 : RegIdx) : Statement (.packh rd rs1 rs2) := of_word32 _ rfl (by decide)
theorem bfp (rd : RegIdx) (rs1 : RegIdx) (rs2 : RegIdx) : Statement (.bfp rd rs1 rs2) := of_word32 _ rfl (by decide)
theorem packu (rd : RegIdx) (rs1 : RegIdx) (rs2 : RegIdx) : Statement (.packu rd rs1 rs2) := of_word32 _ rfl (by decide)
theorem grev (rd : RegIdx) (rs1 : RegIdx) (rs2 : RegIdx) : Statement (.grev rd rs1 rs2) := of_word32 _ rfl (by decide)
theorem grevi (rd : RegIdx) (rs1 : RegIdx) (shamt : BitVec 5) : Statement (.grevi rd rs1 shamt) := of_word32 _ rfl (by decide)
theorem gorc (rd : RegIdx) (rs1 : RegIdx) (rs2 : RegIdx) : Statement (.gorc rd rs1 rs2) := of_word32 _ rfl (by decide)
theorem gorci (rd : RegIdx) (rs1 : RegIdx) (shamt : BitVec 5) : Statement (.gorci rd rs1 shamt) := of_word32 _ rfl (by decide)
theorem shfl (rd : RegIdx) (rs1 : RegIdx) (rs2 : RegIdx) : Statement (.shfl rd rs1 rs2) := of_word32 _ rfl (by decide)
theorem shfli (rd : RegIdx) (rs1 : RegIdx) (shamt : BitVec 4) : Statement (.shfli rd rs1 shamt) := of_word32 _ rfl (by decide)
theorem unshfl (rd : RegIdx) (rs1 : RegIdx) (rs2 : RegIdx) : Statement (.unshfl rd rs1 rs2) := of_word32 _ rfl (by decide)
theorem unshfli (rd : RegIdx) (rs1 : RegIdx) (shamt : BitVec 4) : Statement (.unshfli rd rs1 shamt) := of_word32 _ rfl (by decide)
theorem xpermN (rd : RegIdx) (rs1 : RegIdx) (rs2 : RegIdx) : Statement (.xpermN rd rs1 rs2) := of_word32 _ rfl (by decide)
theorem xpermB (rd : RegIdx) (rs1 : RegIdx) (rs2 : RegIdx) : Statement (.xpermB rd rs1 rs2) := of_word32 _ rfl (by decide)
theorem xpermH (rd : RegIdx) (rs1 : RegIdx) (rs2 : RegIdx) : Statement (.xpermH rd rs1 rs2) := of_word32 _ rfl (by decide)
theorem crc32B (rd : RegIdx) (rs1 : RegIdx) : Statement (.crc32B rd rs1) := of_word32 _ rfl (by decide)
theorem crc32H (rd : RegIdx) (rs1 : RegIdx) : Statement (.crc32H rd rs1) := of_word32 _ rfl (by decide)
theorem crc32W (rd : RegIdx) (rs1 : RegIdx) : Statement (.crc32W rd rs1) := of_word32 _ rfl (by decide)
theorem crc32cB (rd : RegIdx) (rs1 : RegIdx) : Statement (.crc32cB rd rs1) := of_word32 _ rfl (by decide)
theorem crc32cH (rd : RegIdx) (rs1 : RegIdx) : Statement (.crc32cH rd rs1) := of_word32 _ rfl (by decide)
theorem crc32cW (rd : RegIdx) (rs1 : RegIdx) : Statement (.crc32cW rd rs1) := of_word32 _ rfl (by decide)
theorem cAddi4spn (rd : CReg) (imm : BitVec 8) : Statement (.cAddi4spn rd imm) := of_parcel16 _ rfl (by decide)
theorem cLw (rd : CReg) (rs1 : CReg) (imm : BitVec 5) : Statement (.cLw rd rs1 imm) := of_parcel16 _ rfl (by decide)
theorem cSw (rs2 : CReg) (rs1 : CReg) (imm : BitVec 5) : Statement (.cSw rs2 rs1 imm) := of_parcel16 _ rfl (by decide)
theorem cNop (imm : BitVec 6) : Statement (.cNop imm) := of_parcel16 _ rfl (by decide)
theorem cAddi (rd : RegIdx) (imm : BitVec 6) : Statement (.cAddi rd imm) := of_parcel16 _ rfl (by decide)
theorem cJal (imm : BitVec 11) : Statement (.cJal imm) := of_parcel16 _ rfl (by decide)
theorem cLi (rd : RegIdx) (imm : BitVec 6) : Statement (.cLi rd imm) := of_parcel16 _ rfl (by decide)
theorem cAddi16sp (imm : BitVec 6) : Statement (.cAddi16sp imm) := of_parcel16 _ rfl (by decide)
theorem cLui (rd : RegIdx) (imm : BitVec 6) : Statement (.cLui rd imm) := of_parcel16 _ rfl (by decide)
theorem cSrli (rd : CReg) (shamt : BitVec 5) : Statement (.cSrli rd shamt) := of_parcel16 _ rfl (by decide)
theorem cSrai (rd : CReg) (shamt : BitVec 5) : Statement (.cSrai rd shamt) := of_parcel16 _ rfl (by decide)
theorem cAndi (rd : CReg) (imm : BitVec 6) : Statement (.cAndi rd imm) := of_parcel16 _ rfl (by decide)
theorem cSub (rd : CReg) (rs2 : CReg) : Statement (.cSub rd rs2) := of_parcel16 _ rfl (by decide)
theorem cXor (rd : CReg) (rs2 : CReg) : Statement (.cXor rd rs2) := of_parcel16 _ rfl (by decide)
theorem cOr (rd : CReg) (rs2 : CReg) : Statement (.cOr rd rs2) := of_parcel16 _ rfl (by decide)
theorem cAnd (rd : CReg) (rs2 : CReg) : Statement (.cAnd rd rs2) := of_parcel16 _ rfl (by decide)
theorem cJ (imm : BitVec 11) : Statement (.cJ imm) := of_parcel16 _ rfl (by decide)
theorem cBeqz (rs1 : CReg) (imm : BitVec 8) : Statement (.cBeqz rs1 imm) := of_parcel16 _ rfl (by decide)
theorem cBnez (rs1 : CReg) (imm : BitVec 8) : Statement (.cBnez rs1 imm) := of_parcel16 _ rfl (by decide)
theorem cSlli (rd : RegIdx) (shamt : BitVec 5) : Statement (.cSlli rd shamt) := of_parcel16 _ rfl (by decide)
theorem cLwsp (rd : RegIdx) (imm : BitVec 6) : Statement (.cLwsp rd imm) := of_parcel16 _ rfl (by decide)
theorem cJr (rs1 : RegIdx) : Statement (.cJr rs1) := of_parcel16 _ rfl (by decide)
theorem cMv (rd : RegIdx) (rs2 : RegIdx) : Statement (.cMv rd rs2) := of_parcel16 _ rfl (by decide)
theorem cEbreak : Statement (.cEbreak) := of_parcel16 _ rfl (by decide)
theorem cJalr (rs1 : RegIdx) : Statement (.cJalr rs1) := of_parcel16 _ rfl (by decide)
theorem cAdd (rd : RegIdx) (rs2 : RegIdx) : Statement (.cAdd rd rs2) := of_parcel16 _ rfl (by decide)
theorem cSwsp (rs2 : RegIdx) (imm : BitVec 6) : Statement (.cSwsp rs2 imm) := of_parcel16 _ rfl (by decide)

end Sys2Proof.Laws.LengthBits
end

