-- ==== Sys2Proof/Laws/StepInvariant.lean ====
section
/-! SUPPORT. What happens besides instructions keeps the invariant of Safety.lean: the end of a step, entering and
leaving Debug Mode, the fetch, the Debug Module, interrupts, and what the environment does. -/

namespace Sys2Proof.Machine

theorem State.tickHart_activity (s : State) (k : HartId) : (s.tickHart k).activity = (s.hartAt k).activity := by
  exact Hart.ticks_activity ..

theorem State.Inv.tickHart {s : State} (i : s.Inv) (k : HartId) : (s.tickHart k).Ok :=
  (i.hartOk k).ticks k.number (s.countsTimeout k) s.env.fresh s.stepTicks

theorem State.Inv.settleAs {s : State} (i : s.Inv) (b : Bool) : (s.settleAs b).Inv := by
  have i1 : (s.mapHart fun h => { h with dbg := { h.dbg with haltWaits := b } }).Inv := by
    refine i.mapHartAt _ _ (fun o => ?_) (fun _ _ e => e)
    exact o.congr o.pc o.mepc o.dpc rfl rfl rfl rfl rfl rfl
  unfold State.settleAs
  generalize (s.mapHart fun h => { h with dbg := { h.dbg with haltWaits := b } }) = s1 at *
  have df : ∀ (t : State) (k : HartId), t.Inv → (t.drainFree k).Inv := by
    intro t k it
    unfold State.drainFree
    split
    · exact it
    · exact it.drain _ _
  have j : ((s1.drainFree .t0).drainFree .t1).Inv := df _ _ (df _ _ i1)
  simp only
  generalize (s1.drainFree .t0).drainFree .t1 = u at *
  exact ⟨j.mem, j.tickHart .t0, j.tickHart .t1, j.shared,
    fun h => (State.tickHart_activity u .t1).trans (j.started h)⟩

/-- Only a hart 1 that was just started changes when it has executed an instruction. -/
theorem State.begun_eq (s : State) (h : s.hart.starting = false) : s.begun = s := by
  rcases s with ⟨_, c, _, ⟨⟨⟩, ⟨⟩⟩⟩
  cases c <;> cases h <;> rfl

theorem State.Inv.begun {s : State} (i : s.Inv) : s.begun.Inv := by
  show (s.mapHart fun h => { h with starting := false }).Inv
  refine i.mapHartAt _ _ (fun o => ?_) (fun _ _ e => e)
  exact o.congr o.pc o.mepc o.dpc rfl rfl rfl rfl rfl rfl

theorem State.Inv.settle {s : State} (i : s.Inv) : s.settle.Inv := i.settleAs false

theorem State.Inv.haltNow {s : State} (i : s.Inv) (m : s.mayAct s.cur) (c o) : (s.haltNow c o).Inv :=
  State.Inv.onCur (i.drainAll _) (State.mayAct_drainAll m) _ fun k => k.enterDebug _ _ _ _

theorem State.Inv.terminate {s : State} (i : s.Inv) (h n l) : (s.terminate h n l).Inv := by
  induction l generalizing s n with
  | nil => exact i
  | cons p l ih =>
    rw [State.terminate]
    apply ih
    split
    · exact i.performStore _ _
    · exact i

theorem State.terminate_cur (s : State) (h n l) :
    (s.terminate h n l).cur = s.cur ∧ (s.terminate h n l).shared = s.shared := by
  induction l generalizing s n with
  | nil => exact ⟨rfl, rfl⟩
  | cons p l ih =>
    rw [State.terminate, (ih _ _).1, (ih _ _).2]
    split
    · rw [State.performStore_frame]; exact ⟨rfl, rfl⟩
    · exact ⟨rfl, rfl⟩

/-- Every load and store is two or four bytes long. -/
theorem memOp_len (i : Instr) (m : MemOp) (h : memOp i = some m) : m.len % 2 = 0 := by
  cases i <;> simp only [memOp, Option.some.injEq, reduceCtorEq] at h <;> subst h <;> simp

theorem State.Inv.clearFlight {s : State} (i : s.Inv) (m : s.mayAct s.cur) (f : Option InFlight) :
    (s.mapHart fun h => { h with inFlight := f }).Inv :=
  i.onCur m _ fun o => o.congr o.pc o.mepc o.dpc rfl rfl rfl rfl rfl rfl

theorem State.Inv.abandonLoad {s : State} (i : s.Inv) (m : s.mayAct s.cur) : s.abandonLoad.Inv := by
  have j := i.clearFlight m none
  simp only [State.abandonLoad]
  split
  · exact j
  split
  · rename_i h
    exact j.writeBack m _ _ (memOp_len _ _ h) _ _
  · exact j

theorem State.abandonLoad_cur (s : State) : s.abandonLoad.cur = s.cur ∧ s.abandonLoad.shared = s.shared := by
  simp only [State.abandonLoad]
  split
  · exact ⟨rfl, rfl⟩
  split <;> exact ⟨rfl, rfl⟩

theorem State.mayAct_of {s t : State} (m : s.mayAct s.cur) (h1 : t.cur = s.cur)
    (h2 : t.shared.start1 = s.shared.start1) : t.mayAct t.cur := by
  unfold State.mayAct
  rw [h1, h2]
  exact m

theorem State.Inv.haltForced {s : State} (i : s.Inv) (m : s.mayAct s.cur) (c o) : (s.haltForced c o).Inv := by
  simp only [State.haltForced]
  have key : ∀ t : State, t.Inv → t.mayAct t.cur → ∀ (b : Hart → List PendingStore) (f : Hart → BitVec 2),
    ((t.mapHart fun h => { h with buffer := b h, dbg := { h.dbg with mfdhs := f h } }).haltNow c o).Inv := by
    intro t it mt b f
    apply State.Inv.haltNow
    · exact it.onCur mt _ fun o => o.congr o.pc o.mepc o.dpc rfl rfl rfl rfl rfl rfl
    · exact mt
  have mt : (s.terminate s.cur 0 s.hart.buffer).mayAct (s.terminate s.cur 0 s.hart.buffer).cur := by
    have e := State.terminate_cur s s.cur 0 s.hart.buffer
    exact State.mayAct_of m e.1 (by rw [e.2])
  apply key
  · split
    · exact (State.Inv.terminate i _ _ _).abandonLoad mt
    · exact i
  · split
    · have e := State.abandonLoad_cur (s.terminate s.cur 0 s.hart.buffer)
      exact State.mayAct_of mt e.1 (by rw [e.2])
    · exact m

theorem State.Inv.tryHalt {s : State} (i : s.Inv) (m : s.mayAct s.cur) (c o) : (s.tryHalt c o).Inv := by
  unfold State.tryHalt
  split
  · split
    · exact State.Inv.settle (State.Inv.haltForced i m c o)
    · exact i.settleAs true
  · exact State.Inv.settle (State.Inv.haltNow i m c o)

theorem State.Inv.waitingBreakpoint {s : State} (i : s.Inv) (m : s.mayAct s.cur) : s.waitingBreakpoint.Inv := by
  unfold State.waitingBreakpoint
  split
  · refine (i.onCur m _ fun o => ?_).tryHalt m _ _
    unfold Hart.countBreakpoint
    split
    · exact o
    · exact o.count _
  · exact i.tryHalt m _ _

theorem State.Inv.complete {s : State} (i : s.Inv) : s.complete.Inv := by
  unfold State.complete
  split
  · rename_i h
    have m : s.mayAct s.cur := i.mayAct _ (by
      simp at h; show s.hart.activity ≠ _; rw [h.2]; simp)
    have j : (s.mapHart fun h => { h with dbg := { h.dbg with stepDone := true } }).Inv :=
      i.onCur m _ fun o => o.congr o.pc o.mepc o.dpc rfl rfl rfl rfl rfl rfl
    exact State.Inv.settle j
  · exact State.Inv.settle i

theorem State.Inv.readPart {s : State} (i : s.Inv) (t a : Word) (k : Nat) : (s.readPart t a k).2.Inv := by
  unfold State.readPart
  split
  · exact i.busError _ _ _
  · exact i

theorem State.readPart_cur (s : State) (t a : Word) (k : Nat) :
    (s.readPart t a k).2.cur = s.cur ∧ (s.readPart t a k).2.shared = s.shared := by
  unfold State.readPart
  split <;> exact ⟨rfl, rfl⟩

theorem State.Inv.beginSplit {s : State} (i : s.Inv) (m : s.mayAct s.cur) (x p k) : (s.beginSplit x p k).Inv := by
  simp only [State.beginSplit]
  split
  · exact (i.dccmStore _ _ _).clearFlight m _
  · have key : ∀ t : State, t.Inv → t.mayAct t.cur → ∀ (a : Word) (f : Option InFlight),
        ((t.readPart a a k).2.mapHart fun h => { h with inFlight := f }).Inv := by
      intro t it mt a f
      have e := State.readPart_cur t a a k
      exact (it.readPart _ _ _).clearFlight (State.mayAct_of mt e.1 (by rw [e.2])) _
    split
    · exact key _ (i.drainAll _) (State.mayAct_drainAll m) _ _
    · exact key _ i m _ _

theorem State.Inv.finishSplit {s : State} (i : s.Inv) (m : s.mayAct s.cur) (p : MemOp) (hp : p.len % 2 = 0) (l) :
    (s.finishSplit p l).Inv := by
  have j := i.clearFlight m none
  simp only [State.finishSplit]
  split
  · exact (j.dccmStore _ _ _).retire m _ _ hp
  · refine (j.readPart _ _ _).writeBack ?_ _ _ hp _ _
    have e := State.readPart_cur (s.mapHart fun h => { h with inFlight := none })
    exact State.mayAct_of m (e _ _ _).1 (by rw [(e _ _ _).2]; rfl)

theorem State.Inv.evalTriggers {s : State} (i : s.Inv) (m : s.mayAct s.cur) (a) :
    (s.evalTriggers a).2.Inv ∧ (s.evalTriggers a).2.cur = s.cur ∧ (s.evalTriggers a).2.shared = s.shared := by
  simp only [State.evalTriggers]
  split
  · refine ⟨?_, rfl, rfl⟩
    simp only
    refine i.onCur m _ fun o => ?_
    exact o.congr o.pc o.mepc o.dpc rfl rfl rfl rfl rfl rfl
  · exact ⟨i, rfl, rfl⟩

theorem State.Inv.cacheFetch {s : State} (i : s.Inv) (a) :
    (s.cacheFetch a).2.Inv ∧ (s.cacheFetch a).2.cur = s.cur ∧ (s.cacheFetch a).2.shared.start1 = s.shared.start1 := by
  simp only [State.cacheFetch]
  split
  · refine ⟨?_, rfl, rfl⟩
    have o := i.shared
    have j := i.withShared { s.shared with micect := bumpErrors s.shared.micect }
      ⟨o.mrac, by rw [bumpErrors_threshold]; exact o.micect, o.miccmect, o.mdccmect, o.mfdc, o.mnmipdel⟩ rfl
    exact j.congr j.mem rfl rfl
  · split
    · exact ⟨i.congr i.mem rfl rfl, rfl, rfl⟩
    · exact ⟨i.congr i.mem rfl rfl, rfl, rfl⟩

theorem State.Inv.parcelAt {s : State} (i : s.Inv) (a) :
    (s.parcelAt a).2.Inv ∧ (s.parcelAt a).2.cur = s.cur ∧ (s.parcelAt a).2.shared.start1 = s.shared.start1 := by
  unfold State.parcelAt
  split
  · exact State.Inv.cacheFetch i _
  · exact ⟨i, rfl, rfl⟩

theorem State.Inv.fetch {s : State} (i : s.Inv) :
    s.fetch.2.Inv ∧ s.fetch.2.cur = s.cur ∧ s.fetch.2.shared.start1 = s.shared.start1 := by
  have a := State.Inv.parcelAt i s.pc
  simp only [State.fetch]
  split
  · exact ⟨i, rfl, rfl⟩
  split
  · exact a
  split
  · exact a
  · have b := State.Inv.parcelAt a.1 (s.pc + 2)
    exact ⟨b.1, b.2.1.trans a.2.1, b.2.2.trans a.2.2⟩

theorem State.Inv.takeNmi {s : State} (i : s.Inv) {k} (m : s.mayAct k) (c) : (s.takeNmi k c).Inv :=
  i.onHart m _ fun o => o.interrupt _ _ _ (even_pins _)

theorem State.Inv.takePendingNmi {s : State} (i : s.Inv) {k} (m : s.mayAct k) : (s.takePendingNmi k).Inv := by
  simp only [State.takePendingNmi]
  split
  · refine State.Inv.takeNmi (i.onHart m _ fun o => ?_) m _
    exact o.congr o.pc o.mepc o.dpc rfl rfl rfl rfl rfl rfl
  · refine State.Inv.takeNmi (i.onHart m _ fun o => ?_) m _
    exact o.congr o.pc o.mepc o.dpc rfl rfl rfl rfl rfl rfl

theorem State.Inv.takeInterrupt {s : State} (i : s.Inv) {k} (m : s.mayAct k) (c) : (s.takeInterrupt k c).Inv := by
  unfold State.takeInterrupt
  split
  · have j := i.captureClaim m
    simp only [State.redirect]
    split
    · exact State.Inv.takeNmi j m _
    split
    · exact State.Inv.takeNmi j m _
    split
    · exact State.Inv.takeNmi j m _
    · exact j.onHart m _ fun o => o.interrupt _ _ _ (even_and _)
  · refine i.onHart m _ fun o => ?_
    have := o.interrupt c (trapVector (s.hartAt k).trap.mtvec c) (interruptEvents c) (even_trapVector _ _)
    exact this.congr this.pc this.mepc this.dpc rfl rfl rfl rfl rfl rfl

theorem State.Inv.handshakes {s : State} (i : s.Inv) : s.handshakes.Inv := i.congr i.mem rfl rfl

theorem State.Inv.tryResume {s : State} (i : s.Inv) (k) : (s.tryResume k).Inv := by
  simp only [State.tryResume]
  split
  · rename_i h
    have m := (i.mayAct k (by simp at h; rw [h.1]; simp))
    have j := i.onHart m Hart.resume fun o => o.resume
    exact j.congr j.mem rfl rfl
  · exact i

theorem State.Inv.requestResume {s : State} (i : s.Inv) (k) : (s.requestResume k).Inv := by
  simp only [State.requestResume]
  split
  · apply State.Inv.tryResume
    have j : State.Inv { s with dm := { s.dm with resumeAck := s.dm.resumeAck.set k false } } := i.congr i.mem rfl rfl
    refine j.mapHartAt k _ (fun o => ?_) (fun _ _ e => e)
    exact o.congr o.pc o.mepc o.dpc rfl rfl rfl rfl rfl rfl
  · exact i.congr i.mem rfl rfl

theorem State.Inv.requestHalt {s : State} (i : s.Inv) (k b) : (s.requestHalt k b).Inv := by
  unfold State.requestHalt
  have j : (s.mapHartAt k fun x => if (b && decide (x.activity = .dbHalt)) = true then { x with dbg :=
    { x.dbg with dbgHaltState := true } } else x).Inv := by
    refine i.mapHartAt k _ (fun o => ?_) (fun _ _ e => ?_)
    · split
      · exact o.congr o.pc o.mepc o.dpc rfl rfl rfl rfl rfl rfl
      · exact o
    · split <;> exact e
  exact j.congr j.mem rfl rfl

theorem State.Inv.dm {s : State} (i : s.Inv) (d : DebugModule) : State.Inv { s with dm := d } := i.congr i.mem rfl rfl

theorem State.Inv.env {s : State} (i : s.Inv) (d : Env) : State.Inv { s with env := d } := i.congr i.mem rfl rfl

theorem State.Inv.controlHart {s : State} (i : s.Inv) (k w) : (s.controlHart k w).Inv := by
  have j := State.Inv.requestHalt i k (w.getLsbD 31)
  simp only [State.controlHart]
  split
  · have j2 : (if w.getLsbD 28 = true then { s.requestHalt k (w.getLsbD 31) with dm :=
    { (s.requestHalt k (w.getLsbD 31)).dm with haveReset :=
      (s.requestHalt k (w.getLsbD 31)).dm.haveReset.set k false } } else s.requestHalt k (w.getLsbD 31)).Inv := by
      split
      · exact j.congr j.mem rfl rfl
      · exact j
    split
    · exact State.Inv.requestResume j2 k
    · exact j2
  · exact i

theorem State.Inv.writeDmcontrol {s : State} (i : s.Inv) (w) : (s.writeDmcontrol w).Inv := by
  unfold State.writeDmcontrol
  split
  · exact i.congr i.mem rfl rfl
  split
  · exact i.congr i.mem rfl rfl
  · simp only; exact State.Inv.controlHart (State.Inv.controlHart (State.Inv.dm i _) _ _) _ _

theorem State.halted_mayAct {s : State} (i : s.Inv) (k) (h : s.halted k = true) : s.mayAct k := by
  unfold State.halted at h
  simp at h
  exact i.mayAct k (by rw [h.2]; simp)

theorem State.Inv.registerDone {s : State} (i : s.Inv) (c d) : (s.registerDone c d).Inv := i.congr i.mem rfl rfl

theorem State.Inv.commandError {s : State} (i : s.Inv) (c) : (s.commandError c).Inv := i.congr i.mem rfl rfl

theorem State.Inv.memoryDone {s : State} (i : s.Inv) (c d n) : (s.memoryDone c d n).Inv := i.congr i.mem rfl rfl

theorem State.Inv.accessRegister {s t : State} (i : s.Inv) {k} (m : s.mayAct k) (c) (e :
    s.accessRegister k c = .ok t) : t.Inv := by
  simp only [State.accessRegister] at e
  split at e
  · injection e with e; rw [← e]; exact State.Inv.commandError i _
  split at e
  · injection e with e; rw [← e]; exact State.Inv.registerDone i _ _
  split at e
  · injection e with e; rw [← e]; exact State.Inv.commandError i _
  split at e
  · split at e
    · injection e with e; rw [← e]; exact State.Inv.commandError i _
    · split at e
      · cases e
      split at e
      · injection e with e; rw [← e]; exact State.Inv.registerDone (i.csrWrite m _ _ _) _ _
      · injection e with e; rw [← e]; apply State.Inv.registerDone
        split
        · exact i.diagRead m
        · exact i
  split at e
  · split at e
    · injection e with e; rw [← e]; exact State.Inv.registerDone (i.onHart m _ fun o => o.setReg _ _) _ _
    · injection e with e; rw [← e]; exact State.Inv.registerDone i _ _
  · injection e with e; rw [← e]; exact State.Inv.commandError i _

theorem State.Inv.debugWrite {s : State} (i : s.Inv) (a v n) : (s.debugWrite a v n).Inv := by
  unfold State.debugWrite
  split
  · exact i.picWrite _ _
  split
  · exact State.Inv.seeStore (State.Inv.seeStore (i.ccmWrite _ _ _) _ _ _) _ _ _
  · exact i.congr (memWf_memWriteN _ _ _ _ i.mem) rfl rfl

theorem State.Inv.accessMemory {s : State} (i : s.Inv) (k c) : (s.accessMemory k c).Inv := by
  simp only [State.accessMemory]
  split
  · exact State.Inv.commandError i _
  split
  · exact State.Inv.commandError i _
  split
  · exact State.Inv.memoryDone (State.Inv.debugWrite i _ _ _) _ _ _
  · exact State.Inv.memoryDone i _ _ _

theorem State.Inv.execCommand {s t : State} (i : s.Inv) (k) (e : s.execCommand k = .ok t) : t.Inv := by
  simp only [State.execCommand] at e
  split at e
  · injection e with e; rw [← e]; exact State.Inv.commandError i _
  split at e
  · injection e with e; rw [← e]; exact State.Inv.commandError i _
  split at e
  · rename_i h _
    exact State.Inv.accessRegister i (State.halted_mayAct i _ (by simpa using h)) _ e
  · injection e with e; rw [← e]; exact State.Inv.accessMemory i _ _

theorem State.Inv.runCommand {s t : State} (i : s.Inv) (e : s.runCommand = .ok t) : t.Inv := by
  simp only [State.runCommand] at e
  generalize (if s.cfg.dualThread = true then s.dm.hartsel else HartId.t0) = k at e
  split at e
  · injection e with e; rw [← e]; exact i
  split at e
  · injection e with e; rw [← e]; exact i.dm _
  · exact i.execCommand k e

theorem State.Inv.autoRun {s t : State} (i : s.Inv) (n) (e : s.autoRun n = .ok t) : t.Inv := by
  unfold State.autoRun at e
  split at e
  · exact State.Inv.runCommand i e
  · injection e with e; rw [← e]; exact i

theorem State.Inv.systemBusDone {s : State} (i : s.Inv) (op) : (s.systemBusDone op).Inv := by
  unfold State.systemBusDone
  split
  · exact i.dm _
  cases op
  · exact i.dm _
  · have hm := memWf_memWriteN s.mem s.dm.sbAddress0 s.dm.sbData0 (min (2 ^ s.dm.sbAccess.toNat) 4) i.mem
    refine i.congr ?_ rfl rfl
    simp only
    split
    · exact memWf_memWriteN _ _ _ _ hm
    · exact hm

theorem State.Inv.systemBus {s : State} (i : s.Inv) (op) : (s.systemBus op).Inv := by
  unfold State.systemBus
  split
  · exact i
  split
  · exact i.dm _
  · exact i.systemBusDone op

theorem State.Inv.commandBusy {s : State} (i : s.Inv) : s.commandBusy.Inv := i.dm _

theorem State.Inv.systemBusBusy {s : State} (i : s.Inv) : s.systemBusBusy.Inv := i.dm _

theorem State.Inv.finishDebug {s t : State} (i : s.Inv) (e : s.finishDebug = .ok t) : t.Inv := by
  simp only [State.finishDebug] at e
  have key : ∀ u : State, u.Inv → (match u.dm.running with
      | some h => State.execCommand { u with dm := { u.dm with running := none } } h
      | none => .ok u) = .ok t → t.Inv := by
    intro u j e
    split at e
    · exact State.Inv.execCommand (j.dm _) _ e
    · injection e with e; rw [← e]; exact j
  cases hb : s.dm.sbBusy with
  | some op =>
    rw [hb] at e
    exact key _ ((i.dm _).systemBusDone op) e
  | none =>
    rw [hb] at e
    exact key _ i e

theorem State.Inv.dmiWrite {s t : State} (i : s.Inv) (a w) (e : s.dmiWrite a w = .ok t) : t.Inv := by
  have ok : ∀ {u : State}, u.Inv → (.ok u : Except Refusal State) = .ok t → t.Inv := by
    intro u j e
    injection e with e
    rw [← e]
    exact j
  unfold State.dmiWrite at e
  simp only at e
  split at e
  · exact ok (State.Inv.writeDmcontrol i _) e
  split at e
  · exact ok i e
  split at e
  · split at e
    · exact ok i.commandBusy e
    · exact State.Inv.autoRun (i.dm _) _ e
  · split at e
    · exact ok i.commandBusy e
    · exact State.Inv.autoRun (i.dm _) _ e
  · exact ok (i.dm _) e
  · refine ok ?_ e
    split
    · exact i.commandBusy
    · exact i.dm _
  · split at e
    · exact ok i.commandBusy e
    split at e
    · exact ok i e
    · exact State.Inv.runCommand (i.dm _) e
  · refine ok ?_ e
    split
    · exact i.commandBusy
    · exact i.dm _
  · split at e
    · cases e
    · exact ok (i.dm _) e
  · refine ok ?_ e
    split
    · exact i.systemBusBusy
    split
    · exact (i.dm _).systemBus _
    · exact i.dm _
  · refine ok ?_ e
    split
    · exact i.systemBusBusy
    · exact (i.dm _).systemBus _
  · refine ok ?_ e
    split
    · exact i.systemBusBusy
    · exact i.dm _
  · exact ok i e

theorem State.Inv.dmiRead {s : State} (i : s.Inv) (a p) (e : s.dmiRead a = .ok p) : p.2.Inv := by
  have ok : ∀ {u : Word × State}, u.2.Inv → (.ok u : Except Refusal (Word × State)) = .ok p → p.2.Inv := by
    intro u j e
    injection e with e
    rw [← e]
    exact j
  have auto : ∀ (n : Nat) (f : State → Word × State), (∀ u, (f u).2 = u) → (s.autoRun n).map f = .ok p → p.2.Inv := by
    intro n f hf e
    cases h : s.autoRun n with
    | error _ => rw [h] at e; cases e
    | ok u =>
      rw [h] at e
      exact ok (by rw [hf]; exact State.Inv.autoRun i _ h) e
  unfold State.dmiRead at e
  simp only at e
  split at e
  · split at e
    · exact ok i.commandBusy e
    · exact auto _ _ (fun _ => rfl) e
  · split at e
    · exact ok i.commandBusy e
    · exact auto _ _ (fun _ => rfl) e
  all_goals try exact ok i e
  · refine ok ?_ e
    split
    · exact i.systemBusBusy
    · simp only
      split
      · exact i.systemBus _
      · exact i
  · refine ok ?_ e
    split
    · exact i.systemBusBusy
    · exact i

theorem State.Inv.jtagScan {s t : State} (i : s.Inv) (r d) (e : s.jtagScan r d = .ok t) : t.Inv := by
  simp only [State.jtagScan] at e
  split at e
  · split at e
    · generalize hq : State.dmiRead _ _ = q at e
      cases q with
      | error _ => cases e
      | ok p => 
        injection e with e; rw [← e]
        have := State.Inv.dmiRead (State.Inv.dm i _) _ _ hq
        exact this.congr this.mem rfl rfl
    split at e
    · exact State.Inv.dmiWrite (State.Inv.dm i _) _ _ e
    · injection e with e; rw [← e]; exact i.congr i.mem rfl rfl
  · injection e with e; rw [← e]; exact i.congr i.mem rfl rfl

theorem State.Inv.mapPins {s : State} (i : s.Inv) (k f) : (s.mapPins k f).Inv := i.congr i.mem rfl rfl

theorem Hart.Ok.countDma {h : Hart} (o : h.Ok) (e) : (h.countDma e).Ok ∧ (h.countDma e).activity = h.activity := by
  unfold Hart.countDma Hart.count
  split
  · exact ⟨o.congr o.pc o.mepc o.dpc rfl rfl rfl rfl rfl rfl, rfl⟩
  · split
    · exact ⟨o.congr o.pc o.mepc o.dpc rfl rfl rfl rfl rfl rfl, rfl⟩
    · exact ⟨o, rfl⟩

theorem State.Inv.countDma {s : State} (i : s.Inv) (e) : (s.countDma e).Inv := by
  unfold State.countDma
  split
  · exact i
  · exact ⟨i.mem, (Hart.Ok.countDma i.hart0 e).1, (Hart.Ok.countDma i.hart1 e).1, i.shared,
      fun h => (Hart.Ok.countDma i.hart1 e).2.trans (i.started h)⟩

theorem State.Inv.dmaWord {s : State} (i : s.Inv) (a v) : (s.dmaWord a v).Inv :=
  State.Inv.seeStore (State.Inv.seeStore (i.ccmWrite _ _ _) _ _ _) _ _ _

theorem State.Inv.resetCore {s : State} (i : s.Inv) : s.resetCore.Inv := by
  have e1 : s.resetCore.mem = s.mem := rfl
  have e2 : s.resetCore.harts.t0 = Hart.inCoreReset s.cfg s.pins.t0 := rfl
  have e3 : s.resetCore.harts.t1 = Hart.inCoreReset s.cfg s.pins.t1 := rfl
  have e4 : s.resetCore.shared = SharedRegs.resetWith s.cfg := rfl
  have k : ∀ p, (Hart.inCoreReset s.cfg p).Ok := fun p =>
    (Hart.ok_resetWith s.cfg .idle).congr (h' :=
      Hart.inCoreReset s.cfg p) (Hart.ok_resetWith s.cfg .idle).pc (Hart.ok_resetWith s.cfg .idle).mepc
        (Hart.ok_resetWith s.cfg .idle).dpc rfl rfl rfl rfl rfl rfl
  constructor
  · rw [e1]; exact i.mem
  · rw [e2]; exact k _
  · rw [e3]; exact k _
  · rw [e4]; exact SharedRegs.ok_resetWith _
  · intro _; rw [e3]; rfl

theorem State.Inv.releaseReset {s : State} (i : s.Inv) : s.releaseReset.Inv := by
  have e1 : s.releaseReset.mem = s.mem := rfl
  have e2 : s.releaseReset.harts.t0 = { Hart.outOfReset s.cfg s.cfg.mpcResetRun0 s.dm.haltReq.t0 with power :=
    s.harts.t0.power } := rfl
  have e3 : s.releaseReset.harts.t1 = s.harts.t1 := rfl
  have e4 : s.releaseReset.shared = s.shared := rfl
  constructor
  · rw [e1]; exact i.mem
  · rw [e2]; have o :=
    Hart.ok_outOfReset s.cfg s.cfg.mpcResetRun0 s.dm.haltReq.t0; exact ⟨o.pc, o.mepc, o.dpc, o.mtvec, o.mie,
      o.inhibit, o.cascade, o.chain1, o.chain3⟩
  · rw [e3]; exact i.hart1
  · rw [e4]; exact i.shared
  · rw [e4, e3]; exact i.started

theorem State.Inv.followReset {s : State} (i : s.Inv) (b) : (s.followReset b).Inv := by
  unfold State.followReset
  split
  · split
    · exact i
    · exact State.Inv.resetCore i
  · split
    · exact State.Inv.releaseReset i
    · exact i

end Sys2Proof.Machine
end

