-- ==== Sys2Proof/Tests/Slice0.lean ====
section
/-! SUPPORT. The package's own tests: every constructor decodes from a word written from the opcode table, every instruction gives the
result of a vector of spec/95_test_vectors.md, each check of WellFormed refuses an ill-formed term, and every statement with hypotheses
has states that meet them. -/

open Sys2Proof Sys2Proof.Machine

/-! ## Well-formed instructions -/

theorem test_wellFormedRefusesPack : (Instr.pack 5 6 0).wellFormed = false := by decide
theorem test_wellFormedRefusesGrevi : (Instr.grevi 5 6 24).wellFormed = false := by decide
theorem test_wellFormedRefusesGorci : (Instr.gorci 5 6 7).wellFormed = false := by decide
theorem test_wellFormedRefusesCAddi4spn : (Instr.cAddi4spn 1 0).wellFormed = false := by decide
theorem test_wellFormedRefusesCAddi : (Instr.cAddi 0 1).wellFormed = false := by decide
theorem test_wellFormedRefusesCAddi16sp : (Instr.cAddi16sp 0).wellFormed = false := by decide
theorem test_wellFormedRefusesCLuiSp : (Instr.cLui 2 1).wellFormed = false := by decide
theorem test_wellFormedRefusesCLuiZero : (Instr.cLui 5 0).wellFormed = false := by decide
theorem test_wellFormedRefusesCLwsp : (Instr.cLwsp 0 1).wellFormed = false := by decide
theorem test_wellFormedRefusesCJr : (Instr.cJr 0).wellFormed = false := by decide
theorem test_wellFormedRefusesCMv : (Instr.cMv 5 0).wellFormed = false := by decide
theorem test_wellFormedRefusesCJalr : (Instr.cJalr 0).wellFormed = false := by decide
theorem test_wellFormedRefusesCAdd : (Instr.cAdd 5 0).wellFormed = false := by decide

/-! ## Words of no instruction (30_encoding.md R371 to R375, 43_c.md) -/

theorem test_noInstrZeros : decodeTableWord 16 0 = none := by decide
theorem test_noInstrOnes : decodeTableWord 32 0xFFFFFFFF = none := by decide
theorem test_noInstrCFlw : decodeTableWord 16 0b011_0_00000_00000_00 = none := by decide
theorem test_noInstrCLwspX0 : decodeTableWord 16 0b010_0_00000_00100_10 = none := by decide
theorem test_noInstrCSrliLong : decodeTableWord 16 0b100_1_00000_00001_01 = none := by decide

/-! ## Decoding: words written from the encodings of spec/opcode_table.json -/

theorem test_decodeLui :
    decodeTableWord 32 0b1101001_01110_01101_011_10110_0110111 = some (.lui 22 0xd2e6b) := by decide
theorem test_decodeAuipc :
    decodeTableWord 32 0b1111001_01010_01110_101_10110_0010111 = some (.auipc 22 0xf2a75) := by decide
theorem test_decodeJal :
    decodeTableWord 32 0b1011110_00010_01001_101_10110_1101111 = some (.jal 22 0xa69e1) := by decide
theorem test_decodeJalr :
    decodeTableWord 32 0b1110010_10001_01101_000_10110_1100111 = some (.jalr 22 13 0xe51) := by decide
theorem test_decodeBeq :
    decodeTableWord 32 0b1100110_11001_01101_000_10110_1100011 = some (.beq 13 25 0xa6b) := by decide
theorem test_decodeBne :
    decodeTableWord 32 0b1001100_11001_01101_001_01010_1100011 = some (.bne 13 25 0x8c5) := by decide
theorem test_decodeBlt :
    decodeTableWord 32 0b1010010_11001_01101_100_10010_1100011 = some (.blt 13 25 0x929) := by decide
theorem test_decodeBge :
    decodeTableWord 32 0b1010010_11001_01101_101_00111_1100011 = some (.bge 13 25 0xd23) := by decide
theorem test_decodeBltu :
    decodeTableWord 32 0b1001001_11001_01101_110_00110_1100011 = some (.bltu 13 25 0x893) := by decide
theorem test_decodeBgeu :
    decodeTableWord 32 0b1011000_11001_01101_111_00010_1100011 = some (.bgeu 13 25 0x981) := by decide
theorem test_decodeLb :
    decodeTableWord 32 0b1101110_11001_01101_000_10110_0000011 = some (.lb 22 13 0xdd9) := by decide
theorem test_decodeLh :
    decodeTableWord 32 0b1001010_10011_01101_001_10110_0000011 = some (.lh 22 13 0x953) := by decide
theorem test_decodeLw :
    decodeTableWord 32 0b1000111_01101_01101_010_10110_0000011 = some (.lw 22 13 0x8ed) := by decide
theorem test_decodeLbu :
    decodeTableWord 32 0b1110100_01111_01101_100_10110_0000011 = some (.lbu 22 13 0xe8f) := by decide
theorem test_decodeLhu :
    decodeTableWord 32 0b1000000_11111_01101_101_10110_0000011 = some (.lhu 22 13 0x81f) := by decide
theorem test_decodeSb :
    decodeTableWord 32 0b1011011_11001_01101_000_01111_0100011 = some (.sb 25 13 0xb6f) := by decide
theorem test_decodeSh :
    decodeTableWord 32 0b1000100_11001_01101_001_11001_0100011 = some (.sh 25 13 0x899) := by decide
theorem test_decodeSw :
    decodeTableWord 32 0b1001011_11001_01101_010_00001_0100011 = some (.sw 25 13 0x961) := by decide
theorem test_decodeAddi :
    decodeTableWord 32 0b1110111_10001_01101_000_10110_0010011 = some (.addi 22 13 0xef1) := by decide
theorem test_decodeSlti :
    decodeTableWord 32 0b1110101_10001_01101_010_10110_0010011 = some (.slti 22 13 0xeb1) := by decide
theorem test_decodeSltiu :
    decodeTableWord 32 0b1001000_11111_01101_011_10110_0010011 = some (.sltiu 22 13 0x91f) := by decide
theorem test_decodeXori :
    decodeTableWord 32 0b1011110_11001_01101_100_10110_0010011 = some (.xori 22 13 0xbd9) := by decide
theorem test_decodeOri :
    decodeTableWord 32 0b1001011_10011_01101_110_10110_0010011 = some (.ori 22 13 0x973) := by decide
theorem test_decodeAndi :
    decodeTableWord 32 0b1000110_10001_01101_111_10110_0010011 = some (.andi 22 13 0x8d1) := by decide
theorem test_decodeSlli :
    decodeTableWord 32 0b0000000_10011_01101_001_10110_0010011 = some (.slli 22 13 19) := by decide
theorem test_decodeSrli :
    decodeTableWord 32 0b0000000_10011_01101_101_10110_0010011 = some (.srli 22 13 19) := by decide
theorem test_decodeSrai :
    decodeTableWord 32 0b0100000_10011_01101_101_10110_0010011 = some (.srai 22 13 19) := by decide
theorem test_decodeAdd :
    decodeTableWord 32 0b0000000_11001_01101_000_10110_0110011 = some (.add 22 13 25) := by decide
theorem test_decodeSub :
    decodeTableWord 32 0b0100000_11001_01101_000_10110_0110011 = some (.sub 22 13 25) := by decide
theorem test_decodeSll :
    decodeTableWord 32 0b0000000_11001_01101_001_10110_0110011 = some (.sll 22 13 25) := by decide
theorem test_decodeSlt :
    decodeTableWord 32 0b0000000_11001_01101_010_10110_0110011 = some (.slt 22 13 25) := by decide
theorem test_decodeSltu :
    decodeTableWord 32 0b0000000_11001_01101_011_10110_0110011 = some (.sltu 22 13 25) := by decide
theorem test_decodeXor :
    decodeTableWord 32 0b0000000_11001_01101_100_10110_0110011 = some (.xor 22 13 25) := by decide
theorem test_decodeSrl :
    decodeTableWord 32 0b0000000_11001_01101_101_10110_0110011 = some (.srl 22 13 25) := by decide
theorem test_decodeSra :
    decodeTableWord 32 0b0100000_11001_01101_101_10110_0110011 = some (.sra 22 13 25) := by decide
theorem test_decodeOr :
    decodeTableWord 32 0b0000000_11001_01101_110_10110_0110011 = some (.or 22 13 25) := by decide
theorem test_decodeAnd :
    decodeTableWord 32 0b0000000_11001_01101_111_10110_0110011 = some (.and 22 13 25) := by decide
theorem test_decodeFence :
    decodeTableWord 32 0b1000001_11100_01101_000_10110_0001111 = some (.fence 8 3 12 13 22) := by decide
theorem test_decodeEcall :
    decodeTableWord 32 0b0000000_00000_00000_000_00000_1110011 = some (.ecall) := by decide
theorem test_decodeEbreak :
    decodeTableWord 32 0b0000000_00001_00000_000_00000_1110011 = some (.ebreak) := by decide
theorem test_decodeMul :
    decodeTableWord 32 0b0000001_11001_01101_000_10110_0110011 = some (.mul 22 13 25) := by decide
theorem test_decodeMulh :
    decodeTableWord 32 0b0000001_11001_01101_001_10110_0110011 = some (.mulh 22 13 25) := by decide
theorem test_decodeMulhsu :
    decodeTableWord 32 0b0000001_11001_01101_010_10110_0110011 = some (.mulhsu 22 13 25) := by decide
theorem test_decodeMulhu :
    decodeTableWord 32 0b0000001_11001_01101_011_10110_0110011 = some (.mulhu 22 13 25) := by decide
theorem test_decodeDiv :
    decodeTableWord 32 0b0000001_11001_01101_100_10110_0110011 = some (.div 22 13 25) := by decide
theorem test_decodeDivu :
    decodeTableWord 32 0b0000001_11001_01101_101_10110_0110011 = some (.divu 22 13 25) := by decide
theorem test_decodeRem :
    decodeTableWord 32 0b0000001_11001_01101_110_10110_0110011 = some (.rem 22 13 25) := by decide
theorem test_decodeRemu :
    decodeTableWord 32 0b0000001_11001_01101_111_10110_0110011 = some (.remu 22 13 25) := by decide
theorem test_decodeLrW :
    decodeTableWord 32 0b0001010_00000_01101_010_10110_0101111 = some (.lrW 22 13 true false) := by decide
theorem test_decodeScW :
    decodeTableWord 32 0b0001110_11001_01101_010_10110_0101111 = some (.scW 22 13 25 true false) := by decide
theorem test_decodeAmoswapW :
    decodeTableWord 32 0b0000110_11001_01101_010_10110_0101111 = some (.amoswapW 22 13 25 true false) := by decide
theorem test_decodeAmoaddW :
    decodeTableWord 32 0b0000010_11001_01101_010_10110_0101111 = some (.amoaddW 22 13 25 true false) := by decide
theorem test_decodeAmoxorW :
    decodeTableWord 32 0b0010010_11001_01101_010_10110_0101111 = some (.amoxorW 22 13 25 true false) := by decide
theorem test_decodeAmoandW :
    decodeTableWord 32 0b0110010_11001_01101_010_10110_0101111 = some (.amoandW 22 13 25 true false) := by decide
theorem test_decodeAmoorW :
    decodeTableWord 32 0b0100010_11001_01101_010_10110_0101111 = some (.amoorW 22 13 25 true false) := by decide
theorem test_decodeAmominW :
    decodeTableWord 32 0b1000010_11001_01101_010_10110_0101111 = some (.amominW 22 13 25 true false) := by decide
theorem test_decodeAmomaxW :
    decodeTableWord 32 0b1010010_11001_01101_010_10110_0101111 = some (.amomaxW 22 13 25 true false) := by decide
theorem test_decodeAmominuW :
    decodeTableWord 32 0b1100010_11001_01101_010_10110_0101111 = some (.amominuW 22 13 25 true false) := by decide
theorem test_decodeAmomaxuW :
    decodeTableWord 32 0b1110010_11001_01101_010_10110_0101111 = some (.amomaxuW 22 13 25 true false) := by decide
theorem test_decodeCsrrw :
    decodeTableWord 32 0b0011010_00101_01101_001_10110_1110011 = some (.csrrw 22 0x345 13) := by decide
theorem test_decodeCsrrs :
    decodeTableWord 32 0b0011010_00101_01101_010_10110_1110011 = some (.csrrs 22 0x345 13) := by decide
theorem test_decodeCsrrc :
    decodeTableWord 32 0b0011010_00101_01101_011_10110_1110011 = some (.csrrc 22 0x345 13) := by decide
theorem test_decodeCsrrwi :
    decodeTableWord 32 0b0011010_00101_10011_101_10110_1110011 = some (.csrrwi 22 0x345 19) := by decide
theorem test_decodeCsrrsi :
    decodeTableWord 32 0b0011010_00101_10011_110_10110_1110011 = some (.csrrsi 22 0x345 19) := by decide
theorem test_decodeCsrrci :
    decodeTableWord 32 0b0011010_00101_10011_111_10110_1110011 = some (.csrrci 22 0x345 19) := by decide
theorem test_decodeFenceI :
    decodeTableWord 32 0b1110110_01011_01101_001_10110_0001111 = some (.fenceI 0xecb 13 22) := by decide
theorem test_decodeMret :
    decodeTableWord 32 0b0011000_00010_00000_000_00000_1110011 = some (.mret) := by decide
theorem test_decodeWfi :
    decodeTableWord 32 0b0001000_00101_00000_000_00000_1110011 = some (.wfi) := by decide
theorem test_decodeSh1add :
    decodeTableWord 32 0b0010000_11001_01101_010_10110_0110011 = some (.sh1add 22 13 25) := by decide
theorem test_decodeSh2add :
    decodeTableWord 32 0b0010000_11001_01101_100_10110_0110011 = some (.sh2add 22 13 25) := by decide
theorem test_decodeSh3add :
    decodeTableWord 32 0b0010000_11001_01101_110_10110_0110011 = some (.sh3add 22 13 25) := by decide
theorem test_decodeClz :
    decodeTableWord 32 0b0110000_00000_01101_001_10110_0010011 = some (.clz 22 13) := by decide
theorem test_decodeCtz :
    decodeTableWord 32 0b0110000_00001_01101_001_10110_0010011 = some (.ctz 22 13) := by decide
theorem test_decodeCpop :
    decodeTableWord 32 0b0110000_00010_01101_001_10110_0010011 = some (.cpop 22 13) := by decide
theorem test_decodeMin :
    decodeTableWord 32 0b0000101_11001_01101_100_10110_0110011 = some (.min 22 13 25) := by decide
theorem test_decodeMinu :
    decodeTableWord 32 0b0000101_11001_01101_101_10110_0110011 = some (.minu 22 13 25) := by decide
theorem test_decodeMax :
    decodeTableWord 32 0b0000101_11001_01101_110_10110_0110011 = some (.max 22 13 25) := by decide
theorem test_decodeMaxu :
    decodeTableWord 32 0b0000101_11001_01101_111_10110_0110011 = some (.maxu 22 13 25) := by decide
theorem test_decodeSextB :
    decodeTableWord 32 0b0110000_00100_01101_001_10110_0010011 = some (.sextB 22 13) := by decide
theorem test_decodeSextH :
    decodeTableWord 32 0b0110000_00101_01101_001_10110_0010011 = some (.sextH 22 13) := by decide
theorem test_decodeZextH :
    decodeTableWord 32 0b0000100_00000_01101_100_10110_0110011 = some (.zextH 22 13) := by decide
theorem test_decodeAndn :
    decodeTableWord 32 0b0100000_11001_01101_111_10110_0110011 = some (.andn 22 13 25) := by decide
theorem test_decodeOrn :
    decodeTableWord 32 0b0100000_11001_01101_110_10110_0110011 = some (.orn 22 13 25) := by decide
theorem test_decodeXnor :
    decodeTableWord 32 0b0100000_11001_01101_100_10110_0110011 = some (.xnor 22 13 25) := by decide
theorem test_decodeRol :
    decodeTableWord 32 0b0110000_11001_01101_001_10110_0110011 = some (.rol 22 13 25) := by decide
theorem test_decodeRor :
    decodeTableWord 32 0b0110000_11001_01101_101_10110_0110011 = some (.ror 22 13 25) := by decide
theorem test_decodeRori :
    decodeTableWord 32 0b0110000_10011_01101_101_10110_0010011 = some (.rori 22 13 19) := by decide
theorem test_decodeRev8 :
    decodeTableWord 32 0b0110100_11000_01101_101_10110_0010011 = some (.rev8 22 13) := by decide
theorem test_decodeOrcB :
    decodeTableWord 32 0b0010100_00111_01101_101_10110_0010011 = some (.orcB 22 13) := by decide
theorem test_decodeClmul :
    decodeTableWord 32 0b0000101_11001_01101_001_10110_0110011 = some (.clmul 22 13 25) := by decide
theorem test_decodeClmulh :
    decodeTableWord 32 0b0000101_11001_01101_011_10110_0110011 = some (.clmulh 22 13 25) := by decide
theorem test_decodeClmulr :
    decodeTableWord 32 0b0000101_11001_01101_010_10110_0110011 = some (.clmulr 22 13 25) := by decide
theorem test_decodeBset :
    decodeTableWord 32 0b0010100_11001_01101_001_10110_0110011 = some (.bset 22 13 25) := by decide
theorem test_decodeBseti :
    decodeTableWord 32 0b0010100_10011_01101_001_10110_0010011 = some (.bseti 22 13 19) := by decide
theorem test_decodeBclr :
    decodeTableWord 32 0b0100100_11001_01101_001_10110_0110011 = some (.bclr 22 13 25) := by decide
theorem test_decodeBclri :
    decodeTableWord 32 0b0100100_10011_01101_001_10110_0010011 = some (.bclri 22 13 19) := by decide
theorem test_decodeBinv :
    decodeTableWord 32 0b0110100_11001_01101_001_10110_0110011 = some (.binv 22 13 25) := by decide
theorem test_decodeBinvi :
    decodeTableWord 32 0b0110100_10011_01101_001_10110_0010011 = some (.binvi 22 13 19) := by decide
theorem test_decodeBext :
    decodeTableWord 32 0b0100100_11001_01101_101_10110_0110011 = some (.bext 22 13 25) := by decide
theorem test_decodeBexti :
    decodeTableWord 32 0b0100100_10011_01101_101_10110_0010011 = some (.bexti 22 13 19) := by decide
theorem test_decodeBcompress :
    decodeTableWord 32 0b0000100_11001_01101_110_10110_0110011 = some (.bcompress 22 13 25) := by decide
theorem test_decodeBdecompress :
    decodeTableWord 32 0b0100100_11001_01101_110_10110_0110011 = some (.bdecompress 22 13 25) := by decide
theorem test_decodePack :
    decodeTableWord 32 0b0000100_11001_01101_100_10110_0110011 = some (.pack 22 13 25) := by decide
theorem test_decodePackh :
    decodeTableWord 32 0b0000100_11001_01101_111_10110_0110011 = some (.packh 22 13 25) := by decide
theorem test_decodeBfp :
    decodeTableWord 32 0b0100100_11001_01101_111_10110_0110011 = some (.bfp 22 13 25) := by decide
theorem test_decodePacku :
    decodeTableWord 32 0b0100100_11001_01101_100_10110_0110011 = some (.packu 22 13 25) := by decide
theorem test_decodeGrev :
    decodeTableWord 32 0b0110100_11001_01101_101_10110_0110011 = some (.grev 22 13 25) := by decide
theorem test_decodeGrevi :
    decodeTableWord 32 0b0110100_10011_01101_101_10110_0010011 = some (.grevi 22 13 19) := by decide
theorem test_decodeGorc :
    decodeTableWord 32 0b0010100_11001_01101_101_10110_0110011 = some (.gorc 22 13 25) := by decide
theorem test_decodeGorci :
    decodeTableWord 32 0b0010100_10011_01101_101_10110_0010011 = some (.gorci 22 13 19) := by decide
theorem test_decodeShfl :
    decodeTableWord 32 0b0000100_11001_01101_001_10110_0110011 = some (.shfl 22 13 25) := by decide
theorem test_decodeShfli :
    decodeTableWord 32 0b0000100_01011_01101_001_10110_0010011 = some (.shfli 22 13 11) := by decide
theorem test_decodeUnshfl :
    decodeTableWord 32 0b0000100_11001_01101_101_10110_0110011 = some (.unshfl 22 13 25) := by decide
theorem test_decodeUnshfli :
    decodeTableWord 32 0b0000100_01011_01101_101_10110_0010011 = some (.unshfli 22 13 11) := by decide
theorem test_decodeXpermN :
    decodeTableWord 32 0b0010100_11001_01101_010_10110_0110011 = some (.xpermN 22 13 25) := by decide
theorem test_decodeXpermB :
    decodeTableWord 32 0b0010100_11001_01101_100_10110_0110011 = some (.xpermB 22 13 25) := by decide
theorem test_decodeXpermH :
    decodeTableWord 32 0b0010100_11001_01101_110_10110_0110011 = some (.xpermH 22 13 25) := by decide
theorem test_decodeCrc32B :
    decodeTableWord 32 0b0110000_10000_01101_001_10110_0010011 = some (.crc32B 22 13) := by decide
theorem test_decodeCrc32H :
    decodeTableWord 32 0b0110000_10001_01101_001_10110_0010011 = some (.crc32H 22 13) := by decide
theorem test_decodeCrc32W :
    decodeTableWord 32 0b0110000_10010_01101_001_10110_0010011 = some (.crc32W 22 13) := by decide
theorem test_decodeCrc32cB :
    decodeTableWord 32 0b0110000_11000_01101_001_10110_0010011 = some (.crc32cB 22 13) := by decide
theorem test_decodeCrc32cH :
    decodeTableWord 32 0b0110000_11001_01101_001_10110_0010011 = some (.crc32cH 22 13) := by decide
theorem test_decodeCrc32cW :
    decodeTableWord 32 0b0110000_11010_01101_001_10110_0010011 = some (.crc32cW 22 13) := by decide
theorem test_decodeCAddi4spn :
    decodeTableWord 16 0b000_1_11000_11110_00 = some (.cAddi4spn 6 0x8f) := by decide
theorem test_decodeCLw :
    decodeTableWord 16 0b010_1_01011_11110_00 = some (.cLw 6 3 27) := by decide
theorem test_decodeCSw :
    decodeTableWord 16 0b110_0_01011_11101_00 = some (.cSw 5 3 19) := by decide
theorem test_decodeCNop :
    decodeTableWord 16 0b000_1_00000_00111_01 = some (.cNop 39) := by decide
theorem test_decodeCAddi :
    decodeTableWord 16 0b000_1_10110_11101_01 = some (.cAddi 22 61) := by decide
theorem test_decodeCJal :
    decodeTableWord 16 0b001_1_11100_10010_01 = some (.cJal 0x5c9) := by decide
theorem test_decodeCLi :
    decodeTableWord 16 0b010_1_10110_01001_01 = some (.cLi 22 41) := by decide
theorem test_decodeCAddi16sp :
    decodeTableWord 16 0b011_1_00010_10010_01 = some (.cAddi16sp 41) := by decide
theorem test_decodeCLui :
    decodeTableWord 16 0b011_1_10110_00101_01 = some (.cLui 22 37) := by decide
theorem test_decodeCSrli :
    decodeTableWord 16 0b100_0_00110_10011_01 = some (.cSrli 6 19) := by decide
theorem test_decodeCSrai :
    decodeTableWord 16 0b100_0_01110_10011_01 = some (.cSrai 6 19) := by decide
theorem test_decodeCAndi :
    decodeTableWord 16 0b100_1_10110_11101_01 = some (.cAndi 6 61) := by decide
theorem test_decodeCSub :
    decodeTableWord 16 0b100_0_11110_00101_01 = some (.cSub 6 5) := by decide
theorem test_decodeCXor :
    decodeTableWord 16 0b100_0_11110_01101_01 = some (.cXor 6 5) := by decide
theorem test_decodeCOr :
    decodeTableWord 16 0b100_0_11110_10101_01 = some (.cOr 6 5) := by decide
theorem test_decodeCAnd :
    decodeTableWord 16 0b100_0_11110_11101_01 = some (.cAnd 6 5) := by decide
theorem test_decodeCJ :
    decodeTableWord 16 0b101_1_10001_11111_01 = some (.cJ 0x47f) := by decide
theorem test_decodeCBeqz :
    decodeTableWord 16 0b110_1_00011_00111_01 = some (.cBeqz 3 0x93) := by decide
theorem test_decodeCBnez :
    decodeTableWord 16 0b111_1_01011_00011_01 = some (.cBnez 3 0x95) := by decide
theorem test_decodeCSlli :
    decodeTableWord 16 0b000_0_10110_10011_10 = some (.cSlli 22 19) := by decide
theorem test_decodeCLwsp :
    decodeTableWord 16 0b010_1_10110_00111_10 = some (.cLwsp 22 57) := by decide
theorem test_decodeCJr :
    decodeTableWord 16 0b100_0_01101_00000_10 = some (.cJr 13) := by decide
theorem test_decodeCMv :
    decodeTableWord 16 0b100_0_10110_11001_10 = some (.cMv 22 25) := by decide
theorem test_decodeCEbreak :
    decodeTableWord 16 0b100_1_00000_00000_10 = some (.cEbreak) := by decide
theorem test_decodeCJalr :
    decodeTableWord 16 0b100_1_01101_00000_10 = some (.cJalr 13) := by decide
theorem test_decodeCAdd :
    decodeTableWord 16 0b100_1_10110_11001_10 = some (.cAdd 22 25) := by decide
theorem test_decodeCSwsp :
    decodeTableWord 16 0b110_0_01110_11001_10 = some (.cSwsp 25 35) := by decide

/-! ## One step: vectors of spec/95_test_vectors.md, part B -/

/-- One fact of a start state or of a result. -/
inductive Item where
  | x (r v : Nat)
  | word (a v : Nat)
  | pc (v : Nat)
  | csr (a v : Nat)
  | reserved (a : Nat)
  | free

/-- The state with a fact made true. -/
def Item.put (s : State) : Item → State
  | .x r v => s.setReg (BitVec.ofNat 5 r) (BitVec.ofNat 32 v)
  | .word a v => { s with mem := memWriteN s.mem (BitVec.ofNat 32 a) (BitVec.ofNat 32 v) 4 }
  | .pc v => s.mapHart fun h => { h with pc := BitVec.ofNat 32 v }
  | .csr a v =>
    match csrOf (BitVec.ofNat 12 a) with
    | some r => s.csrWrite s.cur r (BitVec.ofNat 32 v) true
    | none => s
  | .reserved a => s.mapHart fun h => { h with reservation := some (BitVec.ofNat 32 a) }
  | .free => s.mapHart fun h => { h with reservation := none }

/-- The fact holds of hart 0. -/
def Item.holds (t : State) : Item → Bool
  | .x r v => t.harts.t0.reg (BitVec.ofNat 5 r) == BitVec.ofNat 32 v
  | .word a v => memReadWord t.mem (BitVec.ofNat 32 a) == BitVec.ofNat 32 v
  | .pc v => t.harts.t0.pc == BitVec.ofNat 32 v
  | .csr a v => (csrOf (BitVec.ofNat 12 a)).any fun r => t.csrRead .t0 r == BitVec.ofNat 32 v
  | .reserved a => t.harts.t0.reservation == some (BitVec.ofNat 32 a)
  | .free => t.harts.t0.reservation == none

/-- The state after reset with these facts. -/
def start (l : List Item) : State := l.foldl Item.put State.reset

/-- A next state of which the facts hold. -/
def ends (o : Host.Outcome State Fault Refusal) (l : List Item) : Bool :=
  match o with
  | .next t => l.all (Item.holds t)
  | .fault _ => false
  | .refused _ => false

/-- From the facts `before`, one step runs the instruction word `w`, and then the facts `after` hold. -/
def runs (nbits w : Nat) (before after : List Item) : Bool := ends (step ((start before).withFetchWord nbits w)) after

theorem test_runLui : runs 32 0xFFFFF2B7 [] [.x 5 0xFFFFF000, .pc 0x20000004] = true := by decide
theorem test_runAuipc : runs 32 0xFFFFF297 [] [.x 5 0x1FFFF000, .pc 0x20000004] = true := by decide
theorem test_runJal : runs 32 0x001000EF [] [.x 1 0x20000004, .pc 0x20000800] = true := by decide
theorem test_runJalr : runs 32 0x003300E7 [.x 6 0x20000100] [.x 1 0x20000004, .pc 0x20000102] = true := by decide
theorem test_runBeq : runs 32 0x00628863 [.x 5 7, .x 6 7] [.pc 0x20000010] = true := by decide
theorem test_runBne : runs 32 0x80629063 [.x 5 1, .x 6 2, .pc 0x20002000] [.pc 0x20001000] = true := by decide
theorem test_runBlt : runs 32 0x0062C463 [.x 5 0xFFFFFFFF, .x 6 1] [.pc 0x20000008] = true := by decide
theorem test_runBge : runs 32 0x0062D463 [.x 5 0x80000000, .x 6 0x80000000] [.pc 0x20000008] = true := by decide
theorem test_runBltu : runs 32 0x0062E463 [.x 5 0xFFFFFFFF, .x 6 1] [.pc 0x20000004] = true := by decide
theorem test_runBgeu : runs 32 0x0062F463 [.x 5 0, .x 6 1] [.pc 0x20000004] = true := by decide
theorem test_runLb :
    runs 32 0x00030283 [.x 6 0x80000, .word 0x80000 0x8081FF80]
      [.x 5 0xFFFFFF80, .pc 0x20000004] = true := by decide
theorem test_runLh :
    runs 32 0x00331283 [.x 6 0x20000100, .word 0x20000100 0x44332211, .word 0x20000104 0x88776655]
      [.x 5 0x5544, .pc 0x20000004] = true := by decide
theorem test_runLw :
    runs 32 0x00132283 [.x 6 0x80000, .word 0x80000 0x44332211, .word 0x80004 0x88776655]
      [.x 5 0x55443322, .pc 0x20000004] = true := by decide
theorem test_runLbu :
    runs 32 0x00034283 [.x 6 0x80000, .word 0x80000 0x8081FF80]
      [.x 5 0x80, .pc 0x20000004] = true := by decide
theorem test_runLhu :
    runs 32 0x00235283 [.x 6 0x80000, .word 0x80000 0x8081FF80]
      [.x 5 0x8081, .pc 0x20000004] = true := by decide
theorem test_runSb :
    runs 32 0x007300A3 [.x 6 0x80000, .x 7 0xABCDEF12, .word 0x80000 0x11111111]
      [.word 0x80000 0x11111211, .pc 0x20000004] = true := by decide
theorem test_runSh :
    runs 32 0x00731123 [.x 6 0x80000, .x 7 0xABCDEF12, .word 0x80000 0x11111111]
      [.word 0x80000 0xEF121111, .pc 0x20000004] = true := by decide
theorem test_runSw :
    runs 32 0x00732123 [.x 6 0x80000, .x 7 0xABCDEF12, .word 0x80000 0x11111111, .word 0x80004 0x22222222]
      [.word 0x80000 0xEF121111, .word 0x80004 0x2222ABCD, .pc 0x20000004] = true := by decide
theorem test_runAddi : runs 32 0x7FF30293 [.x 6 0x7FFFFFFF] [.x 5 0x800007FE, .pc 0x20000004] = true := by decide
theorem test_runSlti : runs 32 0xFFF32293 [.x 6 0xFFFFFFFE] [.x 5 1, .pc 0x20000004] = true := by decide
theorem test_runSltiu : runs 32 0xFFF33293 [.x 6 0xFFFFFFFE] [.x 5 1, .pc 0x20000004] = true := by decide
theorem test_runXori : runs 32 0xFFF34293 [.x 6 0xF0F0F0F] [.x 5 0xF0F0F0F0, .pc 0x20000004] = true := by decide
theorem test_runOri : runs 32 0x80036293 [.x 6 1] [.x 5 0xFFFFF801, .pc 0x20000004] = true := by decide
theorem test_runAndi : runs 32 0xFF037293 [.x 6 0x12345678] [.x 5 0x12345670, .pc 0x20000004] = true := by decide
theorem test_runSlli : runs 32 0x01F31293 [.x 6 3] [.x 5 0x80000000, .pc 0x20000004] = true := by decide
theorem test_runSrli : runs 32 0x01F35293 [.x 6 0x80000000] [.x 5 1, .pc 0x20000004] = true := by decide
theorem test_runSrai : runs 32 0x40035293 [.x 6 0x80000000] [.x 5 0x80000000, .pc 0x20000004] = true := by decide
theorem test_runAdd : runs 32 0x007302B3 [.x 6 0x7FFFFFFF, .x 7 1] [.x 5 0x80000000, .pc 0x20000004] = true := by decide
theorem test_runSub : runs 32 0x407302B3 [.x 6 0x80000000, .x 7 1] [.x 5 0x7FFFFFFF, .pc 0x20000004] = true := by decide
theorem test_runSll : runs 32 0x007312B3 [.x 6 1, .x 7 0x21] [.x 5 2, .pc 0x20000004] = true := by decide
theorem test_runSlt : runs 32 0x007322B3 [.x 6 0x80000000, .x 7 0x7FFFFFFF] [.x 5 1, .pc 0x20000004] = true := by decide
theorem test_runSltu : runs 32 0x007332B3 [.x 6 0x80000000, .x 7 0x7FFFFFFF] [.x 5 0, .pc 0x20000004] = true := by decide
theorem test_runXor : runs 32 0x006342B3 [.x 6 0xDEADBEEF] [.x 5 0, .pc 0x20000004] = true := by decide
theorem test_runSrl : runs 32 0x007352B3 [.x 6 0x80000000, .x 7 0xFFFFFFFF] [.x 5 1, .pc 0x20000004] = true := by decide
theorem test_runSra : runs 32 0x407352B3 [.x 6 0x80000000, .x 7 0x24] [.x 5 0xF8000000, .pc 0x20000004] = true := by decide
theorem test_runOr : runs 32 0x007362B3 [.x 6 0xF0F00000, .x 7 0xF0F] [.x 5 0xF0F00F0F, .pc 0x20000004] = true := by decide
theorem test_runAnd : runs 32 0x007372B3 [.x 6 0xFF00FF00, .x 7 0xFF00FF0] [.x 5 0xF000F00, .pc 0x20000004] = true := by decide
theorem test_runFence : runs 32 0x0FF0000F [] [.pc 0x20000004] = true := by decide
theorem test_runEcall :
    runs 32 0x00000073 [.csr 0x305 0x20000400]
      [.csr 0x342 0xB, .csr 0x7FF 0, .csr 0x343 0, .csr 0x341 0x20000000, .pc 0x20000400] = true := by decide
theorem test_runEbreak :
    runs 32 0x00100073 [.csr 0x305 0x20000400]
      [.csr 0x342 3, .csr 0x7FF 2, .csr 0x343 0x20000000, .csr 0x341 0x20000000, .pc 0x20000400] = true := by decide
theorem test_runMul : runs 32 0x027302B3 [.x 6 0xFFFFFFFF, .x 7 0xFFFFFFFF] [.x 5 1, .pc 0x20000004] = true := by decide
theorem test_runMulh :
    runs 32 0x027312B3 [.x 6 0x80000000, .x 7 0x80000000]
      [.x 5 0x40000000, .pc 0x20000004] = true := by decide
theorem test_runMulhsu :
    runs 32 0x027322B3 [.x 6 0x80000000, .x 7 0xFFFFFFFF]
      [.x 5 0x80000000, .pc 0x20000004] = true := by decide
theorem test_runMulhu :
    runs 32 0x027332B3 [.x 6 0xFFFFFFFF, .x 7 0xFFFFFFFF]
      [.x 5 0xFFFFFFFE, .pc 0x20000004] = true := by decide
theorem test_runDiv : runs 32 0x027342B3 [.x 6 0xFFFFFFF9, .x 7 2] [.x 5 0xFFFFFFFD, .pc 0x20000004] = true := by decide
theorem test_runDivu : runs 32 0x027352B3 [.x 6 0x80000000, .x 7 0xFFFFFFFF] [.x 5 0, .pc 0x20000004] = true := by decide
theorem test_runRem : runs 32 0x027362B3 [.x 6 5, .x 7 0] [.x 5 5, .pc 0x20000004] = true := by decide
theorem test_runRemu :
    runs 32 0x027372B3 [.x 6 0x80000000, .x 7 0xFFFFFFFF]
      [.x 5 0x80000000, .pc 0x20000004] = true := by decide
theorem test_runLrW :
    runs 32 0x100322AF [.x 6 0x80008, .word 0x80008 0x55]
      [.x 5 0x55, .reserved 0x80008, .pc 0x20000004] = true := by decide
theorem test_runScW :
    runs 32 0x187322AF [.x 6 0x80008, .x 7 0x66, .word 0x80008 0x55, .reserved 0x80008]
      [.x 5 0, .word 0x80008 0x66, .free, .pc 0x20000004] = true := by decide
theorem test_runAmoswapW :
    runs 32 0x087322AF [.x 6 0x80010, .x 7 0x22, .word 0x80010 0x11]
      [.x 5 0x11, .word 0x80010 0x22, .pc 0x20000004] = true := by decide
theorem test_runAmoaddW :
    runs 32 0x007322AF [.x 6 0x80010, .x 7 1, .word 0x80010 0x7FFFFFFF]
      [.x 5 0x7FFFFFFF, .word 0x80010 0x80000000, .pc 0x20000004] = true := by decide
theorem test_runAmoxorW :
    runs 32 0x207322AF [.x 6 0x80010, .x 7 0xFFFF00, .word 0x80010 0xFFFF0000]
      [.x 5 0xFFFF0000, .word 0x80010 0xFF00FF00, .pc 0x20000004] = true := by decide
theorem test_runAmoandW :
    runs 32 0x607322AF [.x 6 0x80010, .x 7 0xFFFF00, .word 0x80010 0xFFFF0000]
      [.x 5 0xFFFF0000, .word 0x80010 0xFF0000, .pc 0x20000004] = true := by decide
theorem test_runAmoorW :
    runs 32 0x407322AF [.x 6 0x80010, .x 7 0xFFFF00, .word 0x80010 0xFFFF0000]
      [.x 5 0xFFFF0000, .word 0x80010 0xFFFFFF00, .pc 0x20000004] = true := by decide
theorem test_runAmominW :
    runs 32 0x807322AF [.x 6 0x80010, .x 7 0x7FFFFFFF, .word 0x80010 0x80000000]
      [.x 5 0x80000000, .word 0x80010 0x80000000, .pc 0x20000004] = true := by decide
theorem test_runAmomaxW :
    runs 32 0xA07322AF [.x 6 0x80010, .x 7 0x7FFFFFFF, .word 0x80010 0x80000000]
      [.x 5 0x80000000, .word 0x80010 0x7FFFFFFF, .pc 0x20000004] = true := by decide
theorem test_runAmominuW :
    runs 32 0xC07322AF [.x 6 0x80010, .x 7 0x7FFFFFFF, .word 0x80010 0x80000000]
      [.x 5 0x80000000, .word 0x80010 0x7FFFFFFF, .pc 0x20000004] = true := by decide
theorem test_runAmomaxuW :
    runs 32 0xE07322AF [.x 6 0x80010, .x 7 0x7FFFFFFF, .word 0x80010 0x80000000]
      [.x 5 0x80000000, .word 0x80010 0x80000000, .pc 0x20000004] = true := by decide
theorem test_runCsrrw :
    runs 32 0x340292F3 [.x 5 0xAAAA5555, .csr 0x340 0x12345678]
      [.x 5 0x12345678, .csr 0x340 0xAAAA5555, .pc 0x20000004] = true := by decide
theorem test_runCsrrs : runs 32 0x300022F3 [] [.x 5 0x1800, .csr 0x300 0x1800, .pc 0x20000004] = true := by decide
theorem test_runCsrrwi : runs 32 0x340FD2F3 [.csr 0x340 7] [.x 5 7, .csr 0x340 0x1F, .pc 0x20000004] = true := by decide
theorem test_runCsrrsi : runs 32 0x340062F3 [.csr 0x340 7] [.x 5 7, .csr 0x340 7, .pc 0x20000004] = true := by decide
theorem test_runCsrrci :
    runs 32 0x300472F3 [.csr 0x300 0x1888]
      [.x 5 0x1888, .csr 0x300 0x1880, .pc 0x20000004] = true := by decide
theorem test_runFenceI : runs 32 0x0000100F [] [.pc 0x20000004] = true := by decide
theorem test_runMret :
    runs 32 0x30200073 [.csr 0x300 0x1880, .csr 0x341 0x20000124]
      [.pc 0x20000124, .csr 0x300 0x1888, .csr 0x341 0x20000124] = true := by decide
theorem test_runWfi : runs 32 0x10500073 [] [.pc 0x20000004] = true := by decide
theorem test_runSh1add : runs 32 0x207322B3 [.x 6 0xC0000001, .x 7 0x10] [.x 5 0x80000012, .pc 0x20000004] = true := by decide
theorem test_runSh2add : runs 32 0x207342B3 [.x 6 0xC0000001, .x 7 0x10] [.x 5 0x14, .pc 0x20000004] = true := by decide
theorem test_runSh3add : runs 32 0x207362B3 [.x 6 0xC0000001, .x 7 0x10] [.x 5 0x18, .pc 0x20000004] = true := by decide
theorem test_runClz : runs 32 0x60031293 [.x 6 0x10000] [.x 5 0xF, .pc 0x20000004] = true := by decide
theorem test_runCtz : runs 32 0x60131293 [.x 6 0x10000] [.x 5 0x10, .pc 0x20000004] = true := by decide
theorem test_runCpop : runs 32 0x60231293 [.x 6 0xFFFFFFFF] [.x 5 0x20, .pc 0x20000004] = true := by decide
theorem test_runMin : runs 32 0x0A7342B3 [.x 6 0x80000000, .x 7 1] [.x 5 0x80000000, .pc 0x20000004] = true := by decide
theorem test_runMinu : runs 32 0x0A7352B3 [.x 6 0x80000000, .x 7 1] [.x 5 1, .pc 0x20000004] = true := by decide
theorem test_runMax : runs 32 0x0A7362B3 [.x 6 0x80000000, .x 7 1] [.x 5 1, .pc 0x20000004] = true := by decide
theorem test_runMaxu : runs 32 0x0A7372B3 [.x 6 0x80000000, .x 7 1] [.x 5 0x80000000, .pc 0x20000004] = true := by decide
theorem test_runSextB : runs 32 0x60431293 [.x 6 0x12345680] [.x 5 0xFFFFFF80, .pc 0x20000004] = true := by decide
theorem test_runSextH : runs 32 0x60531293 [.x 6 0x12348678] [.x 5 0xFFFF8678, .pc 0x20000004] = true := by decide
theorem test_runZextH : runs 32 0x080342B3 [.x 6 0xFFFF8678] [.x 5 0x8678, .pc 0x20000004] = true := by decide
theorem test_runAndn : runs 32 0x407372B3 [.x 6 0x12345678, .x 7 0xFFFF] [.x 5 0x12340000, .pc 0x20000004] = true := by decide
theorem test_runOrn : runs 32 0x407362B3 [.x 6 0x12345678, .x 7 0xFFFF] [.x 5 0xFFFF5678, .pc 0x20000004] = true := by decide
theorem test_runXnor : runs 32 0x407342B3 [.x 6 0x12345678, .x 7 0xFFFF] [.x 5 0xEDCB5678, .pc 0x20000004] = true := by decide
theorem test_runRol : runs 32 0x607312B3 [.x 6 0x12345678, .x 7 0x24] [.x 5 0x23456781, .pc 0x20000004] = true := by decide
theorem test_runRor : runs 32 0x607352B3 [.x 6 0x12345678, .x 7 0x24] [.x 5 0x81234567, .pc 0x20000004] = true := by decide
theorem test_runRori : runs 32 0x61C35293 [.x 6 0x12345678] [.x 5 0x23456781, .pc 0x20000004] = true := by decide
theorem test_runRev8 : runs 32 0x69835293 [.x 6 0x12345678] [.x 5 0x78563412, .pc 0x20000004] = true := by decide
theorem test_runOrcB : runs 32 0x28735293 [.x 6 0x1000080] [.x 5 0xFF0000FF, .pc 0x20000004] = true := by decide
theorem test_runClmul :
    runs 32 0x0A7312B3 [.x 6 0x12345678, .x 7 0x9ABCDEF0]
      [.x 5 0x5CD25A80, .pc 0x20000004] = true := by decide
theorem test_runClmulh :
    runs 32 0x0A7332B3 [.x 6 0x12345678, .x 7 0x9ABCDEF0]
      [.x 5 0x8860E94, .pc 0x20000004] = true := by decide
theorem test_runClmulr :
    runs 32 0x0A7322B3 [.x 6 0x12345678, .x 7 0x9ABCDEF0]
      [.x 5 0x110C1D28, .pc 0x20000004] = true := by decide
theorem test_runBset : runs 32 0x287312B3 [.x 6 0, .x 7 0x3F] [.x 5 0x80000000, .pc 0x20000004] = true := by decide
theorem test_runBseti : runs 32 0x28031293 [.x 6 0x80000000] [.x 5 0x80000001, .pc 0x20000004] = true := by decide
theorem test_runBclr : runs 32 0x487312B3 [.x 6 0xFFFFFFFF, .x 7 0x20] [.x 5 0xFFFFFFFE, .pc 0x20000004] = true := by decide
theorem test_runBclri : runs 32 0x49F31293 [.x 6 0xFFFFFFFF] [.x 5 0x7FFFFFFF, .pc 0x20000004] = true := by decide
theorem test_runBinv : runs 32 0x687312B3 [.x 6 0x12345678, .x 7 4] [.x 5 0x12345668, .pc 0x20000004] = true := by decide
theorem test_runBinvi : runs 32 0x68431293 [.x 6 0x12345678] [.x 5 0x12345668, .pc 0x20000004] = true := by decide
theorem test_runBext : runs 32 0x487352B3 [.x 6 0x12345678, .x 7 0x24] [.x 5 1, .pc 0x20000004] = true := by decide
theorem test_runBexti : runs 32 0x48335293 [.x 6 0x12345678] [.x 5 1, .pc 0x20000004] = true := by decide
theorem test_runBcompress :
    runs 32 0x087362B3 [.x 6 0x12345678, .x 7 0xFF00FF]
      [.x 5 0x3478, .pc 0x20000004] = true := by decide
theorem test_runBdecompress :
    runs 32 0x487362B3 [.x 6 0x3478, .x 7 0xFF00FF]
      [.x 5 0x340078, .pc 0x20000004] = true := by decide
theorem test_runPack :
    runs 32 0x087342B3 [.x 6 0x12345678, .x 7 0x9ABCDEF0]
      [.x 5 0xDEF05678, .pc 0x20000004] = true := by decide
theorem test_runPackh : runs 32 0x087372B3 [.x 6 0x12345678, .x 7 0x9ABCDEF0] [.x 5 0xF078, .pc 0x20000004] = true := by decide
theorem test_runBfp : runs 32 0x487372B3 [.x 6 0xFFFFFFFF, .x 7 0x4080005] [.x 5 0xFFFFF5FF, .pc 0x20000004] = true := by decide
theorem test_runPacku :
    runs 32 0x487342B3 [.x 6 0x12345678, .x 7 0x9ABCDEF0]
      [.x 5 0x9ABC1234, .pc 0x20000004] = true := by decide
theorem test_runGrev : runs 32 0x687352B3 [.x 6 0x12345678, .x 7 0x1F] [.x 5 0x1E6A2C48, .pc 0x20000004] = true := by decide
theorem test_runGrevi : runs 32 0x68735293 [.x 6 0x12345678] [.x 5 0x482C6A1E, .pc 0x20000004] = true := by decide
theorem test_runGorc : runs 32 0x287352B3 [.x 6 0x10000, .x 7 0x1F] [.x 5 0xFFFFFFFF, .pc 0x20000004] = true := by decide
theorem test_runGorci : runs 32 0x29035293 [.x 6 0x1234] [.x 5 0x12341234, .pc 0x20000004] = true := by decide
theorem test_runShfl : runs 32 0x087312B3 [.x 6 0x12345678, .x 7 0xF] [.x 5 0x131C1F60, .pc 0x20000004] = true := by decide
theorem test_runShfli : runs 32 0x08831293 [.x 6 0x12345678] [.x 5 0x12563478, .pc 0x20000004] = true := by decide
theorem test_runUnshfl : runs 32 0x087352B3 [.x 6 0x131C1F60, .x 7 0xF] [.x 5 0x12345678, .pc 0x20000004] = true := by decide
theorem test_runUnshfli : runs 32 0x08835293 [.x 6 0x12345678] [.x 5 0x12563478, .pc 0x20000004] = true := by decide
theorem test_runXpermN :
    runs 32 0x287322B3 [.x 6 0x12345678, .x 7 0x1234567]
      [.x 5 0x87654321, .pc 0x20000004] = true := by decide
theorem test_runXpermB :
    runs 32 0x287342B3 [.x 6 0x12345678, .x 7 0x10203]
      [.x 5 0x78563412, .pc 0x20000004] = true := by decide
theorem test_runXpermH : runs 32 0x287362B3 [.x 6 0x12345678, .x 7 1] [.x 5 0x56781234, .pc 0x20000004] = true := by decide
theorem test_runCrc32B : runs 32 0x61031293 [.x 6 1] [.x 5 0x77073096, .pc 0x20000004] = true := by decide
set_option maxRecDepth 8000 in
theorem test_runCrc32H : runs 32 0x61131293 [.x 6 1] [.x 5 0x191B3141, .pc 0x20000004] = true := by decide
set_option maxRecDepth 8000 in
theorem test_runCrc32W : runs 32 0x61231293 [.x 6 1] [.x 5 0xB8BC6765, .pc 0x20000004] = true := by decide
theorem test_runCrc32cB : runs 32 0x61831293 [.x 6 1] [.x 5 0xF26B8303, .pc 0x20000004] = true := by decide
set_option maxRecDepth 8000 in
theorem test_runCrc32cH : runs 32 0x61931293 [.x 6 1] [.x 5 0x13A29877, .pc 0x20000004] = true := by decide
set_option maxRecDepth 8000 in
theorem test_runCrc32cW : runs 32 0x61A31293 [.x 6 1] [.x 5 0xDD45AAB8, .pc 0x20000004] = true := by decide
theorem test_runCAddi4spn : runs 16 0x1FE0 [.x 2 0x80100] [.x 8 0x804FC, .pc 0x20000002] = true := by decide
theorem test_runCLw :
    runs 16 0x5D64 [.x 10 0x80000, .word 0x8007C 0xCAFEBABE]
      [.x 9 0xCAFEBABE, .pc 0x20000002] = true := by decide
theorem test_runCSw :
    runs 16 0xC124 [.x 10 0x80000, .x 9 0x600DF00D]
      [.word 0x80040 0x600DF00D, .pc 0x20000002] = true := by decide
theorem test_runCNop : runs 16 0x0001 [] [.pc 0x20000002] = true := by decide
theorem test_runCAddi : runs 16 0x1281 [.x 5 0x10] [.x 5 0xFFFFFFF0, .pc 0x20000002] = true := by decide
theorem test_runCJal : runs 16 0x3001 [.pc 0x20001000] [.x 1 0x20001002, .pc 0x20000800] = true := by decide
theorem test_runCLi : runs 16 0x4FFD [] [.x 31 0x1F, .pc 0x20000002] = true := by decide
theorem test_runCAddi16sp : runs 16 0x7101 [.x 2 0x81000] [.x 2 0x80E00, .pc 0x20000002] = true := by decide
theorem test_runCLui : runs 16 0x72FD [] [.x 5 0xFFFFF000, .pc 0x20000002] = true := by decide
theorem test_runCSrli : runs 16 0x807D [.x 8 0x80000000] [.x 8 1, .pc 0x20000002] = true := by decide
theorem test_runCSrai : runs 16 0x8411 [.x 8 0x80000000] [.x 8 0xF8000000, .pc 0x20000002] = true := by decide
theorem test_runCAndi : runs 16 0x9841 [.x 8 0x12345678] [.x 8 0x12345670, .pc 0x20000002] = true := by decide
theorem test_runCSub : runs 16 0x8C05 [.x 8 5, .x 9 7] [.x 8 0xFFFFFFFE, .pc 0x20000002] = true := by decide
theorem test_runCXor : runs 16 0x8C25 [.x 8 0xFF00, .x 9 0xFF0] [.x 8 0xF0F0, .pc 0x20000002] = true := by decide
theorem test_runCOr : runs 16 0x8C45 [.x 8 0xFF00, .x 9 0xFF0] [.x 8 0xFFF0, .pc 0x20000002] = true := by decide
theorem test_runCAnd : runs 16 0x8C65 [.x 8 0xFF00, .x 9 0xFF0] [.x 8 0xF00, .pc 0x20000002] = true := by decide
theorem test_runCJ : runs 16 0xBFFD [.pc 0x20000010] [.pc 0x2000000E] = true := by decide
theorem test_runCBeqz : runs 16 0xD001 [.x 8 0, .pc 0x20000200] [.pc 0x20000100] = true := by decide
theorem test_runCBnez : runs 16 0xEC7D [.x 8 1] [.pc 0x200000FE] = true := by decide
theorem test_runCSlli : runs 16 0x02FE [.x 5 3] [.x 5 0x80000000, .pc 0x20000002] = true := by decide
theorem test_runCLwsp :
    runs 16 0x52FE [.x 2 0x80000, .word 0x800FC 0xBADF00D]
      [.x 5 0xBADF00D, .pc 0x20000002] = true := by decide
theorem test_runCJr : runs 16 0x8282 [.x 5 0x20000101] [.pc 0x20000100] = true := by decide
theorem test_runCMv : runs 16 0x829A [.x 6 0x1234] [.x 5 0x1234, .pc 0x20000002] = true := by decide
theorem test_runCEbreak :
    runs 16 0x9002 [.csr 0x305 0x20000400]
      [.csr 0x342 3, .csr 0x7FF 2, .csr 0x343 0x20000000, .csr 0x341 0x20000000, .pc 0x20000400] = true := by decide
theorem test_runCJalr : runs 16 0x9282 [.x 5 0x20000100] [.x 1 0x20000002, .pc 0x20000100] = true := by decide
theorem test_runCAdd : runs 16 0x929A [.x 5 0xFFFFFFFF, .x 6 2] [.x 5 1, .pc 0x20000002] = true := by decide
theorem test_runCSwsp :
    runs 16 0xDF96 [.x 2 0x80000, .x 5 0xFEEDFACE]
      [.word 0x800FC 0xFEEDFACE, .pc 0x20000002] = true := by decide
theorem test_runCsrrc : runs 32 0x340332F3 [.csr 0x340 0xFF00FF0F, .x 6 0x0F0F000F] [.x 5 0xFF00FF0F, .csr 0x340 0xF000FF00] = true := by
  decide
theorem test_runIllegalWord :
    runs 32 0x0073B2AF [.csr 0x305 0x20000400]
      [.csr 0x342 2, .csr 0x7FF 0, .csr 0x343 0x0073B2AF, .csr 0x341 0x20000000, .pc 0x20000400] = true := by decide

/-! ## Hypotheses that can be met: states and operands for the statements of Obligations.lean -/

/-- The invariant holds of the state after reset. -/
theorem witness_invariant : State.reset.Inv :=
  ⟨by decide, ⟨by decide, by decide, by decide, by decide, by decide, by decide, by decide, by decide, by decide⟩,
    ⟨by decide, by decide, by decide, by decide, by decide, by decide, by decide, by decide, by decide⟩,
    ⟨by unfold mracLegal; decide, by decide, by decide, by decide, by decide, by decide⟩, fun _ => by decide⟩

/-- `InvariantKept`, `MachineNeverStops`: a state with the invariant, without moves, that has a next state. -/
theorem witness_step : State.reset.Inv ∧ configOk State.reset.cfg = true ∧ State.reset.env.inputs = [] ∧
    State.reset.cur = .t0 ∧ ends (step State.reset) [.csr 0x342 2] = true :=
  ⟨witness_invariant, by decide, by decide, by decide, by decide⟩

/-- `DecodeAfterEncode`, `EncodeAfterDecode`: well-formed instructions at the edges of their fields. -/
theorem witness_wellFormed : (Instr.pack 31 0 1).WF ∧ (Instr.cLui 31 0x3F).WF ∧ (Instr.cLui 0 1).WF ∧
    decode [0xA2, 0x42, 0x13] = .ok (.cLwsp 5 2, [0x13]) := ⟨by decide, by decide, by decide, rfl⟩

/-- `LoadsFromDccm`: an aligned word at the start of the DCCM, its last byte, a misaligned halfword in the stack's window. -/
theorem witness_loadsFromDccm :
    (IsLoad (.lw 5 6 0) 4 5 6 ((0 : BitVec 12).signExtend 32) 4 true ∧
      DccmAccess (start [.x 6 0x80000]) ((start [.x 6 0x80000]).reg 6)
        ((start [.x 6 0x80000]).reg 6 + (0 : BitVec 12).signExtend 32) 4) ∧
    (IsLoad (.lbu 0 6 0xFFF) 4 0 6 ((0xFFF : BitVec 12).signExtend 32) 1 false ∧
      DccmAccess (start [.x 6 0x9FFFF, .pc 0]) 0x9FFFF 0x9FFFF 1) ∧
    (IsLoad (.cLwsp 5 2) 2 5 2 (BitVec.ofNat 32 (4 * (2 : BitVec 6).toNat)) 4 true ∧
      DccmAccess (start [.x 2 0x80001]) ((start [.x 2 0x80001]).reg 2)
        ((start [.x 2 0x80001]).reg 2 + BitVec.ofNat 32 (4 * (2 : BitVec 6).toNat)) 4) :=
  ⟨⟨.lw .., by decide, by decide, by decide, by decide⟩, ⟨.lbu .., by decide, by decide, by decide, by decide⟩,
    ⟨.cLwsp .., by decide, by decide, by decide, by decide⟩⟩

/-- A state in which the store of a word at the last word of bus memory waits. -/
def storeWaits : State :=
  (start [.x 6 0x2000FFFC]).mapHart fun h => { h with buffer := [⟨0x2000FFFC, 4, 0x11223344, false, 0x2000FFFC⟩] }

/-- The same with memory that answers no read. -/
def writeOnly : State :=
  { storeWaits with cfg := { Config.default with ram := [⟨0x20000000, 0x10000, true, false, true, true, true⟩] } }

/-- Region 2 has side effects, and the hart has executed a fence since. -/
def sideEffects : State := (start [.csr 0x7C0 0x20]).fenceOp .t0

/-- `LoadsFromBusMemory`, `StoresToBus`: the last word of bus memory, with a store to it that waits; with side effects and aligned; a load
that only the waiting store answers. -/
theorem witness_bus :
    (IsLoad (.lw 5 6 0) 4 5 6 ((0 : BitVec 12).signExtend 32) 4 true ∧ IsStore (.sw 7 6 0) 4 7 6 ((0 : BitVec 12).signExtend 32) 4 ∧
      BusAccess storeWaits (storeWaits.reg 6) (storeWaits.reg 6 + (0 : BitVec 12).signExtend 32) 4 ∧
      storeWaits.readAnswered 0x2000FFFC 4 (storeWaits.sideEffectAt .t0 0x2000FFFC) = true ∧ storeWaits.BufferAnswered .t0) ∧
    (BusAccess sideEffects 0x20000002 0x20000002 2 ∧ sideEffects.sideEffectAt .t0 0x20000002 = true ∧
      sideEffects.readAnswered 0x20000002 2 true = true) ∧
    (BusAccess writeOnly (writeOnly.reg 6) (writeOnly.reg 6 + (0 : BitVec 12).signExtend 32) 4 ∧
      writeOnly.readAnswered 0x2000FFFC 4 false = false ∧ writeOnly.forwarded 0x2000FFFC 4 = true ∧ writeOnly.BufferAnswered .t0) :=
  ⟨⟨.lw .., .sw .., ⟨by decide, by decide, by decide, by decide, by decide, by decide⟩, by decide,
      by unfold State.BufferAnswered; decide⟩,
    ⟨⟨by decide, by decide, by decide, by decide, by decide, by decide⟩, by decide, by decide⟩,
    ⟨by decide, by decide, by decide, by decide, by decide, by decide⟩, by decide, by decide, by unfold State.BufferAnswered; decide⟩

/-- `BusErrorsAreImprecise`: a load just behind bus memory, and a store there that waits, for each state of the capture. -/
theorem witness_busErrors :
    (IsLoad (.lb 5 6 0) 4 5 6 ((0 : BitVec 12).signExtend 32) 1 true ∧
      BusAccess (start [.x 6 0x20010000]) ((start [.x 6 0x20010000]).reg 6)
        ((start [.x 6 0x20010000]).reg 6 + (0 : BitVec 12).signExtend 32) 1 ∧
      (start [.x 6 0x20010000]).readAnswered 0x20010000 1 ((start [.x 6 0x20010000]).sideEffectAt .t0 0x20010000) = false ∧
      (start [.x 6 0x20010000]).hart.buffer = []) ∧
    State.reset.busAnswers .write (⟨0x2000FFFE, 4, 0, false, 0x2000FFFE⟩ : PendingStore).addr.toNat 4 = false :=
  ⟨⟨.lb .., ⟨by decide, by decide, by decide, by decide, by decide, by decide⟩, by decide, by decide⟩, by decide⟩

/-- A store's error takes the place of a load's of the same cycle, and of no other. -/
theorem test_storeErrorFirst :
    (NmiRegs.capture ⟨false, some .load, 4, true, true⟩ .store 8).mdseac = 8 ∧
    (NmiRegs.capture ⟨false, some .load, 4, true, false⟩ .store 8).mdseac = 4 := ⟨by decide, by decide⟩

/-- A misaligned store is two transactions on AXI4, also inside a double-word, and four on AHB-Lite (20_memory.md R305). -/
theorem test_storePieces :
    (storePieces .axi4 0x20000006 0x11223344 4 false).map (fun p => (p.addr, p.size, p.data)) =
      [(0x20000006, 2, 0x11223344), (0x20000008, 2, 0x1122)] ∧
    (storePieces .axi4 0x20000001 0x11223344 4 false).map (fun p => (p.addr, p.size, p.data)) =
      [(0x20000001, 3, 0x11223344), (0x20000004, 1, 0x11)] ∧
    (storePieces .ahbLite 0x20000006 0x11223344 4 false).map (fun p => (p.addr, p.size, p.data)) =
      [(0x20000006, 1, 0x11223344), (0x20000007, 1, 0x112233), (0x20000008, 1, 0x1122), (0x20000009, 1, 0x11)] :=
  ⟨by decide, by decide, by decide⟩

/-- Both words of the DCCM that a word at 0x80002 lies in have double-bit errors, and so has the next one. -/
def marked : State := { start [.x 6 0x80000, .x 7 0x55] with badWords := [0x80000, 0x80004, 0x80008] }

/-- The same without ECC checks. -/
def unchecked : State := { marked with shared := { marked.shared with mfdc := 0x100 } }

/-- `StoresToDccm`: a word across a word boundary; the other hart's reservation on one of its words; an aligned word with an error; a
word across a boundary with an error on both sides and no checks. -/
theorem witness_storesToDccm :
    (IsStore (.sw 7 6 2) 4 7 6 ((2 : BitVec 12).signExtend 32) 4 ∧
    DccmAccess (start [.x 6 0x80000, .reserved 0x80004]) ((start [.x 6 0x80000, .reserved 0x80004]).reg 6)
      ((start [.x 6 0x80000, .reserved 0x80004]).reg 6 + (2 : BitVec 12).signExtend 32) 4) ∧
    (configOk marked.cfg = true ∧ coreLocal marked.cfg (marked.reg 6).toNat = true ∧
      (∀ k, k < 4 → inDccm marked.cfg (0x80004 + k) = true) ∧ (marked.reg 6 + (4 : BitVec 12).signExtend 32).toNat = 0x80004) ∧
    (∀ k, k < 4 → inDccm unchecked.cfg (0x80002 + k) = true) ∧ unchecked.shared.mfdc.getLsbD 8 = true :=
  ⟨⟨.sw .., by decide, by decide, by decide, by decide⟩, ⟨by decide, by decide, by decide, by decide⟩, by decide, by decide⟩

/-- A partial store without ECC checks updates the ECC of the words it touches, and of no other (20_memory.md R267). -/
theorem test_partialStoreUpdatesEcc :
    (match exec (.sb 7 6 5) unchecked with
     | .next t => t.badWords == [0x80000, 0x80008]
     | .fault _ => false
     | .refused _ => false) = true ∧
    (match exec (.sw 7 6 2) unchecked with
     | .next t => t.badWords == [0x80008]
     | .fault _ => false
     | .refused _ => false) = true := by decide

/-- The conditions of `LoadChecks` and `StoreChecks` (for a store: `store` is true), for an access of `n` bytes at `a` from the base `b`,
in their order. -/
def checks (s : State) (store : Bool) (b a : Word) (n : Nat) : List Bool :=
  let x := a.toNat
  let e := x + n - 1
  let own := dRegion s.cfg x
  [decide (regionOf x ≠ regionOf e),
    !own && s.sideEffectAt s.cur x && decide (x % n ≠ 0),
    own && !(inDccm s.cfg x && inDccm s.cfg e) && !(inPic s.cfg x && inPic s.cfg e),
    !own && !windowsAllow s.cfg.dataWindows x e,
    decide (coreLocal s.cfg b.toNat ≠ coreLocal s.cfg x),
    inPic s.cfg x && decide (n ≠ 4 ∨ x % 4 ≠ 0),
    inDccm s.cfg x && !s.shared.mfdc.getLsbD 8 && !(store && decide (n = 4 ∧ x % 4 = 0)) && 
      (s.badWords.contains (wordAddr x) || s.badWords.contains (wordAddr e))]

/-- The build of the tests with one data window: the 64 KB from 0x20000000. -/
def windowed : State :=
  State.resetWith { Config.default with dataWindows := ⟨true, 0x20000000, 0xFFFF⟩ :: List.replicate 7 ⟨false, 0, 0x3F⟩ }

/-- A state with a double-bit error in the second word of the DCCM. -/
def spoiled : State := { State.reset with badWords := [0x80004] }

/-- `LoadChecks`, `StoreChecks`: each check is the first that hits somewhere. -/
theorem witness_checks :
    (checks State.reset false 0xFFFFFFF 0xFFFFFFF 2).head? = some true ∧
    checks sideEffects false 0x20000001 0x20000001 4 = [false, true, false, false, false, false, false] ∧
    checks State.reset false 0x9FFFD 0x9FFFD 4 = [false, false, true, false, false, false, false] ∧
    checks windowed true 0x2000FFFE 0x2000FFFE 4 = [false, false, false, true, false, false, false] ∧
    checks State.reset true 0xA0000 0x9FFFC 4 = [false, false, false, false, true, false, false] ∧
    checks State.reset false 0xC0004 0xC0004 2 = [false, false, false, false, false, true, false] ∧
    checks spoiled false 0x80000 0x80004 4 = [false, false, false, false, false, false, true] ∧
    checks spoiled false 0x80000 0x80002 4 = [false, false, false, false, false, false, true] ∧
    checks spoiled true 0x80000 0x80003 2 = [false, false, false, false, false, false, true] ∧
    checks spoiled true 0x80000 0x80006 2 = [false, false, false, false, false, false, true] ∧
    checks spoiled true 0x80000 0x80004 4 = [false, false, false, false, false, false, false] := by
  refine ⟨by decide, by decide, by decide, by decide, by decide, by decide, by decide, by decide, by decide, by decide, by decide⟩

/-- A build with one hart, and reverse priority order in the PIC. -/
def oneHart : State :=
  let s := State.resetWith { Config.default with dualThread := false }
  { s with pic := { s.pic with priord := true } }

/-- `PicRegisters`: the first and the last source of the build in every register, the first and the last word of pending bits, both
priority orders, and builds with one and with two harts. -/
theorem witness_picRegisters :
    configOk State.reset.cfg = true ∧ State.reset.cfg.dualThread = true ∧ State.reset.pic.priord = false ∧
    configOk oneHart.cfg = true ∧ oneHart.cfg.dualThread = false ∧ oneHart.pic.priord = true ∧
    State.reset.pic.sources[0]? = some Source.reset ∧ oneHart.pic.sources[7]? = some Source.reset ∧
    (∀ p ∈ [((0xC0000, 4), 4), ((0xC0000, 0x20), 0x20), ((0xC2000, 4), 0x2004), ((0xC2000, 0x20), 0x2020), ((0xC3000, 0), 0x3000),
      ((0xC4000, 4), 0x4004), ((0xC4000, 0x20), 0x4020), ((0xC5000, 4), 0x5004), ((0xC5000, 0x20), 0x5020),
      ((0xC6000, 4), 0x6004), ((0xC6000, 0x20), 0x6020), ((0xC1000, 0), 0x1000), ((0xC1000, 0x1C), 0x101C),
      ((0xC2000, 0x800), 0x1800), ((0xC2000, 0x81C), 0x181C)],
      coreLocal State.reset.cfg (p.1.1 : Word).toNat = true ∧
      (p.1.1 + (BitVec.ofNat 12 p.1.2).signExtend 32 : Word).toNat = picBase State.reset.cfg + p.2) := by
  refine ⟨by decide, by decide, by decide, by decide, by decide, by decide, by decide, by decide, by decide⟩

/-- The priority of source 1 in reverse order: 1 is stored as 14 (12 R190). -/
theorem test_reverseOrder :
    (match exec (.sw 7 6 4) (oneHart.mapHart fun h => (h.setReg 6 0xC0000).setReg 7 1) with
     | .next t => (t.pic.sources[0]?).any (fun x => x.pri == 14) && (t.picRead .t0 4 == 1)
     | .fault _ => false
     | .refused _ => false) = true := by decide

/-- `Fences`: a store waits, and the platform answers it. -/
theorem witness_fences : configOk storeWaits.cfg = true ∧ storeWaits.BufferAnswered storeWaits.cur ∧ storeWaits.hart.buffer ≠ [] :=
  ⟨by decide, by unfold State.BufferAnswered; decide, by decide⟩

/-- `LoadReserved`, `StoreConditional`, `AtomicMemoryOperations`: the first and the last word of the DCCM, with a reservation on the word,
on another, and with none. -/
theorem witness_atomics :
    AtomicAccess (start [.x 6 0x80000, .reserved 0x80000]) ((start [.x 6 0x80000, .reserved 0x80000]).reg 6) ∧
    (start [.x 6 0x80000, .reserved 0x80000]).hart.reservation = some ((start [.x 6 0x80000, .reserved 0x80000]).reg 6) ∧
    AtomicAccess (start [.x 6 0x9FFFC]) ((start [.x 6 0x9FFFC]).reg 6) ∧ (start [.x 6 0x9FFFC]).hart.reservation = none ∧
    (start [.reserved 0x80004]).hart.reservation ≠ some 0x80000 :=
  ⟨⟨by decide, by decide, by decide, by decide, by decide⟩, by decide, ⟨by decide, by decide, by decide, by decide, by decide⟩,
    by decide, by decide⟩

/-- The conditions of `AtomicsThatTrap` for the address `a`, in their order. -/
def atomicChecks (s : State) (a : Word) : List Bool :=
  let x := a.toNat
  let own := dRegion s.cfg x
  [decide (regionOf x ≠ regionOf (x + 3)),
    own && !(inDccm s.cfg x && inDccm s.cfg (x + 3)) && !(inPic s.cfg x && inPic s.cfg (x + 3)),
    !own && !windowsAllow s.cfg.dataWindows x (x + 3),
    decide (x % 4 ≠ 0) || !inDccm s.cfg x,
    !s.shared.mfdc.getLsbD 8 && s.badWords.contains x]

/-- `AtomicsThatTrap`: a build without atomics; in the build of the tests each check is the first that hits somewhere. -/
theorem witness_atomicsThatTrap :
    (State.resetWith { Config.default with atomicEnable := false }).cfg.atomicEnable = false ∧
    configOk State.reset.cfg = true ∧ State.reset.cfg.atomicEnable = true ∧ State.reset.cfg.dccmEnable = true ∧
    (atomicChecks State.reset 0x0FFFFFFD).head? = some true ∧
    (atomicChecks State.reset 0x9FFFD).take 2 = [false, true] ∧
    (atomicChecks windowed 0x20010000).take 3 = [false, false, true] ∧
    (atomicChecks State.reset 0x80001).take 4 = [false, false, false, true] ∧
    (atomicChecks State.reset 0xC0004).take 4 = [false, false, false, true] ∧
    (atomicChecks State.reset 0x20000000).take 4 = [false, false, false, true] ∧
    atomicChecks spoiled 0x80004 = [false, false, false, false, true] ∧
    atomicChecks spoiled 0x80000 = [false, false, false, false, false] := by
  refine ⟨by decide, by decide, by decide, by decide, by decide, by decide, by decide, by decide, by decide, by decide, by decide,
    by decide⟩

/-- `CallsAndBreakpoints`: both values of `dcsr.ebreakm`. -/
theorem witness_breakpoints : State.reset.hart.dbg.ebreakm = false ∧
    (State.reset.mapHart fun h => { h with dbg := { h.dbg with ebreakm := true } }).hart.dbg.ebreakm = true :=
  ⟨by decide, by decide⟩

/-- `IllegalCsrAccesses`: the first and the last address, which are not listed, and one in the gap of a range that is; the first and the
last read-only address; the first and the last CSR of Debug Mode; and a build with the fast interrupt redirect. -/
theorem witness_illegalCsr :
    (∀ a ∈ [0x000, 0x302, 0x321, 0xB01, 0xC00, 0xFFF], csrOf (BitVec.ofNat 12 a) = none) ∧
    0xC00 ≤ (0xC00 : BitVec 12).toNat ∧ 0xC00 ≤ (0xFFF : BitVec 12).toNat ∧
    (0x7B0 : BitVec 12).toNat ∈ [0x7B0, 0x7B1, 0x7C4, 0x7C8, 0x7C9, 0x7CA, 0x7CB, 0x7CC] ∧
    (0x7CC : BitVec 12).toNat ∈ [0x7B0, 0x7B1, 0x7C4, 0x7C8, 0x7C9, 0x7CA, 0x7CB, 0x7CC] ∧
    (State.resetWith { Config.default with fastRedirect := true }).cfg.fastRedirect = true := by
  refine ⟨by decide, by decide, by decide, by decide, by decide, by decide⟩

/-- A selected trigger of the debugger's, and a first trigger of software's whose neighbour is the debugger's. -/
def owned (mine next : Bool) : State := State.reset.mapHart fun h =>
  { h with trig := { h.trig with tr0 := { h.trig.tr0 with dmode := mine }, tr1 := { h.trig.tr1 with dmode := next } } }

/-- `TriggersAreProtected`, `CsrReadBack`: the selected trigger belongs to the debugger, or to software with a neighbour of either. -/
theorem witness_triggers : (owned true false).hart.trig.selected.dmode = true ∧
    (owned false false).hart.trig.selected.dmode = false ∧ (owned false false).hart.trig.tr1.dmode = false ∧
    (owned false true).hart.trig.selected.dmode = false ∧ (owned false true).hart.trig.tr1.dmode = true := by
  refine ⟨by decide, by decide, by decide, by decide, by decide⟩

/-- `CsrReadBack`: the first and the last `mcause` of the statement, and a build without the fast interrupt redirect. -/
theorem witness_csrReadBack : (0 : Word).toNat ≤ 7 ∧ (0xF0001002 : Word) ∈ [(11 : Word), 0xF0001002] ∧
    State.reset.cfg.fastRedirect = false := ⟨by decide, by decide, by decide⟩

/-- A counter reads what was written to it, not one more (10_state.md R44). -/
theorem test_counterWrite : runs 32 0xB0031073 [.x 6 7] [.csr 0xB00 7] = true := by decide

/-- A hart at its reset vector is ready to execute. -/
theorem witness_ready : State.reset.Ready :=
  ⟨⟨by decide, by decide, by decide, by decide, by decide, by decide, by decide, by decide, by decide, by decide⟩,
    by decide, by decide, by decide, by decide, by decide⟩

/-- `StepRunsDecodedInstruction`, `StepRunsInstructionInMemory`: `addi x5, x6, -1` at the reset vector. -/
theorem witness_stepRuns :
    ((State.reset.withFetchWord 32 0xFFF30293).Ready ∧
      (State.reset.withFetchWord 32 0xFFF30293).fetch = (.bytes [0x93, 0x02, 0xF3, 0xFF], State.reset.withFetchWord 32 0xFFF30293) ∧
      decode [0x93, 0x02, 0xF3, 0xFF] = .ok (.addi 5 6 0xFFF, [])) ∧
    ∀ k, 2 * k < (encode (.addi 5 6 0xFFF)).length →
      (State.reset.withFetchWord 32 0xFFF30293).fetchFault (addrAt (State.reset.withFetchWord 32 0xFFF30293).pc (2 * k)) = none ∧
      (State.reset.withFetchWord 32 0xFFF30293).usesCache (addrAt (State.reset.withFetchWord 32 0xFFF30293).pc (2 * k)) = false := by
  refine ⟨⟨?_, by decide, rfl⟩, fun k h => ?_⟩
  · exact ⟨⟨by decide, by decide, by decide, by decide, by decide, by decide, by decide, by decide, by decide, by decide⟩,
      by decide, by decide, by decide, by decide, by decide⟩
  · have : 2 * k < 4 := h
    have : k = 0 ∨ k = 1 := by omega
    obtain rfl | rfl := this <;> exact ⟨by decide, by decide⟩

/-- The build of the tests with one instruction window: the 64 KB from 0x20000000. -/
def fetchWindowed : Config :=
  { Config.default with instWindows := ⟨true, 0x20000000, 0xFFFF⟩ :: List.replicate 7 ⟨false, 0, 0x3F⟩ }

/-- The first parcel of a 32-bit instruction in the last parcel of bus memory. -/
def lastParcel : State := start [.pc 0x2000FFFE, .word 0x2000FFFC 0xFFFF0000]

/-- `FetchExceptions`, second parcel: the first one passes, the second one is behind the memory. -/
theorem witness_secondParcel : lastParcel.Ready ∧ lastParcel.fetchFault lastParcel.pc.toNat = none ∧
    (lastParcel.parcelAt lastParcel.pc).1.extractLsb' 0 2 = 3 ∧ iRegion lastParcel.cfg (lastParcel.pc + 2).toNat = false ∧
    windowsAllow lastParcel.cfg.instWindows 0x20010000 0x20010001 = true ∧
    lastParcel.busAnswers .fetch (lastParcel.pc + 2).toNat 2 = false ∧
    ends (step lastParcel) [.csr 0x342 1, .csr 0x7FF 9, .csr 0x343 0x20010000, .csr 0x341 0x2000FFFE] = true :=
  ⟨⟨⟨by decide, by decide, by decide, by decide, by decide, by decide, by decide, by decide, by decide, by decide⟩,
    by decide, by decide, by decide, by decide, by decide⟩, by decide, by decide, by decide, by decide, by decide, by decide⟩

/-- An execute trigger comes before the fault of its own fetch (92 D2). -/
theorem test_triggerBeforeFetchFault :
    ends (step (start [.pc 0x60000, .csr 0x300 8, .csr 0x7A1 0x44, .csr 0x7A2 0x60000])) [.csr 0x342 3, .csr 0x7FF 1] = true := by
  decide

/-- `FetchExceptions`: bytes of no instruction at the reset vector; and each check of the fetch hits first somewhere. -/
theorem witness_fetchExceptions :
    (State.reset.Ready ∧ State.reset.fetch = (.bytes [0, 0], State.reset) ∧ decode [0, 0] = .error (.illegalParcel 0)) ∧
    ((start [.pc 0x60000]).Ready ∧ iRegion State.reset.cfg 0x60000 = true ∧ inIccm State.reset.cfg 0x60000 = false) ∧
    (iRegion fetchWindowed 0x20010000 = false ∧ windowsAllow fetchWindowed.instWindows 0x20010000 0x20010001 = false) ∧
    (iRegion State.reset.cfg 0x20010000 = false ∧ windowsAllow State.reset.cfg.instWindows 0x20010000 0x20010001 = true ∧
      State.reset.busAnswers .fetch 0x20010000 2 = false) ∧
    (inIccm State.reset.cfg 0x40002 = true ∧ wordAddr 0x40002 ∈ ({ State.reset with badWords := [0x40000] } : State).badWords ∧
      State.reset.shared.mfdc.getLsbD 8 = false) := by
  refine ⟨⟨witness_ready, by decide, rfl⟩, ⟨?_, by decide, by decide⟩, ⟨by decide, by decide⟩, ⟨by decide, by decide, by decide⟩,
    by decide, by decide, by decide⟩
  exact ⟨⟨by decide, by decide, by decide, by decide, by decide, by decide, by decide, by decide, by decide, by decide⟩,
    by decide, by decide, by decide, by decide, by decide⟩

/-- Machine-mode software interrupt of hart 0, enabled, with vectored handlers. -/
def interrupted : State :=
  let s := start [.csr 0x304 8, .csr 0x300 8, .csr 0x305 0x20000401]
  { s with pins := { s.pins with t0 := { s.pins.t0 with softInt := true } } }

/-- `InterruptsAreTaken`: an interrupt that is taken next, also in a build with the fast interrupt redirect. -/
theorem witness_interrupts : ({ interrupted with cfg := { interrupted.cfg with fastRedirect := true } } : State).pendingInterrupt .t0 =
      some 0x80000003 ∧ (0x80000003 : Word) ≠ 0x8000000B ∧ interrupted.AtBoundary ∧ interrupted.hart.nmi.pending = false ∧
    interrupted.hart.trap.mstatusMie = true ∧ interrupted.pendingInterrupt interrupted.cur = some 0x80000003 ∧
    interrupted.cfg.fastRedirect = false ∧ interrupted.hart.tim0.hold = false ∧ interrupted.hart.tim1.hold = false :=
  ⟨by decide, by decide, ⟨by decide, by decide, by decide, by decide, by decide, by decide, by decide, by decide, by decide, by decide⟩,
    by decide, by decide, by decide, by decide, by decide, by decide⟩

/-- The interrupt of the witness goes to the fourth vector. -/
theorem test_interruptTaken : ends (step interrupted) [.csr 0x342 0x80000003, .csr 0x341 0x20000000, .pc 0x2000040C] = true := by decide

/-- A build with the fast interrupt redirect, the vector table at `table`, double-bit errors in the words `bad`, and the external
interrupt of source 2 pending and enabled. -/
def redirecting (dccm : Bool) (table : Nat) (bad : List Nat) : State :=
  let cfg := { Config.default with fastRedirect := true, dccmEnable := dccm, atomicEnable := dccm }
  let s := [Item.csr 0x304 0x800, .csr 0x300 8, .csr 0xBC8 table, .word 0x80408 0x20000101].foldl Item.put (State.resetWith cfg)
  { s with
    badWords := bad
    pic := { s.pic with
      sources := [Source.reset, { Source.reset with pri := 3, en := true, edge := true, ip := true }, Source.reset] } }

/-- The conditions of `InterruptsAreTaken` for the redirect, in their order. -/
def redirectChecks (s : State) : List Bool :=
  let entry : Word := s.hart.pic.vecBase ++ BitVec.ofNat 8 (s.pic.best s.cfg.dualThread s.cur).2 ++ 0#2
  let x := entry.toNat
  [!s.cfg.dccmEnable || decide (x / 2 ^ 28 ≠ s.cfg.dccmRegion.toNat), !(inDccm s.cfg x && inDccm s.cfg (x + 3)),
    !s.shared.mfdc.getLsbD 8 && s.badWords.contains x]

/-- The external interrupt with the redirect is taken next. -/
theorem witness_redirecting : (redirecting true 0x80400 []).AtBoundary ∧ (redirecting true 0x80400 []).hart.nmi.pending = false ∧
    (redirecting true 0x80400 []).hart.trap.mstatusMie = true ∧
    (redirecting true 0x80400 []).pendingInterrupt (redirecting true 0x80400 []).cur = some 0x8000000B ∧
    (redirecting true 0x80400 []).cfg.fastRedirect = true :=
  ⟨⟨by decide, by decide, by decide, by decide, by decide, by decide, by decide, by decide, by decide, by decide⟩,
    by decide, by decide, by decide, by decide⟩

/-- `InterruptsAreTaken`: each reason why the table cannot be read is the first that hits somewhere; a table at the end of
the DCCM can be read. -/
theorem witness_redirect :
    (redirectChecks (redirecting false 0x80400 [])).head? = some true ∧
    (redirectChecks (redirecting true 0x20000000 [])).head? = some true ∧
    (redirectChecks (redirecting true 0x7FC00 [])).take 2 = [false, true] ∧
    (redirectChecks (redirecting true 0xA0000 [])).take 2 = [false, true] ∧
    redirectChecks (redirecting true 0x80400 [0x80408]) = [false, false, true] ∧
    redirectChecks (redirecting true 0x80400 [0x8040C]) = [false, false, false] ∧
    redirectChecks (redirecting true 0x9FC00 []) = [false, false, false] := by
  refine ⟨by decide, by decide, by decide, by decide, by decide, by decide, by decide⟩

/-- The redirect goes to the word of source 2 in the table, bit 0 ignored (60 R672), or to the NMI vector (R693). -/
theorem test_redirect :
    ends (step (redirecting true 0x80400 [])) [.csr 0x342 0x8000000B, .csr 0x341 0x20000000, .csr 0xFC8 0x80408, .pc 0x20000100] = true ∧
    ends (step (redirecting true 0x20000000 [])) [.csr 0x342 0xF0001002, .csr 0xFC8 0x20000008, .pc 0x2000F000] = true :=
  ⟨by decide, by decide⟩

/-- A hart with the pin's NMI and a bus error's pending. -/
def nonMaskable : State := State.reset.mapHart fun h => { h with nmi := ⟨true, some .load, 0x20010000, true, false⟩ }

/-- `NmisAreTaken`. -/
theorem witness_nmis : nonMaskable.AtBoundary ∧ nonMaskable.hart.nmi.pending = true :=
  ⟨⟨by decide, by decide, by decide, by decide, by decide, by decide, by decide, by decide, by decide, by decide⟩, by decide⟩

/-- The NMI of the pin comes first. -/
theorem test_nmiTaken : ends (step nonMaskable) [.csr 0x342 0, .csr 0x341 0x20000000, .pc 0x2000F000] = true := by decide

/-- A halt request of the debugger for hart 0. -/
def haltAsked : State := { State.reset with dm := { State.reset.dm with dmactive := true, haltReq := ⟨true, false⟩ } }

/-- `HaltRequestsEnterDebugMode`. -/
theorem witness_haltRequest : configOk haltAsked.cfg = true ∧ haltAsked.cur = .t0 ∧ haltAsked.env.inputs = [] ∧
    haltAsked.heldInReset = false ∧ haltAsked.hart.activity = .running ∧ haltAsked.hart.dbg.stepping = false ∧
    haltAsked.dm.haltReq.get haltAsked.cur = true ∧ haltAsked.hart.trig.armed = false ∧ haltAsked.hart.inFlight = none ∧
    haltAsked.env.stall.get haltAsked.cur = ⟨false, false⟩ := by
  refine ⟨by decide, by decide, by decide, by decide, by decide, by decide, by decide, by decide, by decide, by decide⟩

/-- Hart 0 held in Debug Mode by the debugger alone, which has selected it. -/
def debugged : State :=
  let s := State.reset.mapHart fun h => { h with activity := .dbHalt, dbg := { h.dbg with dbgHaltState := true, dpc := 0x20000010 } }
  { s with dm := { s.dm with dmactive := true } }

/-- `ResumeLeavesDebugMode`, `HaltedHartsDoNotExecute`, `DebuggerAccessesRegisters` (a halted hart, and one that runs). -/
theorem witness_debugMode : debugged.hart.activity = .dbHalt ∧ debugged.hart.dbg.dbgHaltState = true ∧
    debugged.hart.dbg.mpcHaltState = false ∧ debugged.hart.power.pmuHaltPending = false ∧ debugged.env.inputs = [] ∧
    ends (step debugged) [.pc 0x20000000] = true ∧ debugged.dm.dmactive = true ∧ debugged.dm.cmderr = 0 ∧
    debugged.halted .t0 = true ∧ debugged.dm.running = none ∧ debugged.env.slowDebug = false ∧ haltAsked.dm.dmactive = true ∧ haltAsked.dm.cmderr = 0 ∧ haltAsked.halted .t0 = false := by
  refine ⟨by decide, by decide, by decide, by decide, by decide, by decide, by decide, by decide, by decide, by decide, by decide,
    by decide, by decide, by decide⟩

/-- The debugger takes its time: a command executes on hart 0. -/
def commanded : State :=
  { debugged with dm := { debugged.dm with running := some .t0 }, env := { debugged.env with slowDebug := true } }

/-- `DebuggerAccessesRegisters`: a command that executes. -/
theorem witness_debuggerBusy : commanded.dm.dmactive = true ∧ commanded.dm.cmderr = 0 ∧ commanded.dm.running.isSome = true :=
  ⟨by decide, by decide, by decide⟩

/-- A second system bus access while one is in progress (12 R245, R247). -/
theorem test_systemBusBusy :
    (match commanded.dmiWrite 0x3C 1 with
     | .ok t => (match t.dmiWrite 0x3C 2 with
       | .ok u => (t.dm.sbBusy == some .write) && u.dm.sbBusyError && (u.dm.sbData0 == 1)
       | .error _ => false)
     | .error _ => false) = true := by decide

/-- `SettleFrame`: a buffer that the bus accepts, and an address that no waiting store covers. -/
theorem witness_settle : storeWaits.BufferAnswered .t0 ∧ storeWaits.BufferAnswered .t1 ∧
    (∀ p ∈ storeWaits.hart.buffer, p.covers 0x2000FFFB = false) ∧ (∀ p ∈ (storeWaits.hartAt .t1).buffer, p.covers 0 = false) := by
  unfold State.BufferAnswered; decide

/-- A load that the bus does not answer stays in progress, and the next step is still its (10_state.md R61). -/
theorem test_loadInProgress :
    (match step { start [.x 6 0x20000000, .word 0x20000000 0x00032283] with
        env := { Env.reset with stall := ⟨⟨true, false⟩, ⟨false, false⟩⟩ } } with
     | .next t => (t.hart.inFlight == some (.sent (.lw 5 6 0))) && (t.pc == 0x20000000) && (t.hart.ctr.minstret == 0)
     | .fault _ => false
     | .refused _ => false) = true := by decide

/-- A stepped instruction completes as one of a running hart, and its clock tick counts in an internal timer (62 R786, R835). -/
theorem test_stepCounts :
    (match step ((start [.word 0x20000000 0x00032283]).mapHart fun h => { h with dbg := { h.dbg with stepping := true } }) with
     | .next t => (t.hartAt .t0).tim0.cnt == 1 && (t.hartAt .t0).dbg.stepDone && (t.hartAt .t0).activity == .running
     | .fault _ => false
     | .refused _ => false) = true := by decide

/-- The step that follows enters Debug Mode with cause 4 (62 R835), `dpc` after the one instruction. -/
theorem test_stepEnds :
    (match step ((start [.pc 0x20000004]).mapHart fun h =>
        { h with dbg := { h.dbg with stepping := true, stepDone := true } }) with
     | .next t => (t.hartAt .t0).activity == .dbHalt && (t.hartAt .t0).dbg.cause == 4 && (t.hartAt .t0).dbg.dpc == 0x20000004
     | .fault _ => false
     | .refused _ => false) = true := by decide

/-- A misaligned halfword inside one word of the DCCM is split too: one byte first (20_memory.md R305). -/
theorem test_splitInsideWord :
    (match step { start [.x 6 0x80001, .word 0x80000 0x44332211, .word 0x20000000 0x00031283] with
        env := { Env.reset with splits := true } } with
     | .next t => (t.hartAt .t0).inFlight == some (.half (.lh 5 6 0) (some 0x22))
     | .fault _ => false
     | .refused _ => false) = true := by decide

/-- A DMA access is counted (event 513), but not for a hart that single-steps with `dcsr.stopcount` = 1 (10_state.md R43, R46). -/
theorem test_dmaCounts :
    let h := { State.reset.hart with ctr := { State.reset.hart.ctr with sel3 := 513 } }
    (h.countDma [513]).ctr.hpm3 = 1 ∧
    ({ h with dbg := { h.dbg with stepping := true, stopcount := true } }.countDma [513]).ctr.hpm3 = 0 := by decide

/-- `way[21]` of `dicawics` is hardwired 0 in a two-way I-cache (12 R225). -/
theorem test_dicawicsWay :
    (State.reset.csrWrite .t0 .dicawics 0xFFFFFFFF true).csrRead .t0 .dicawics = 0x0131FFF8 ∧
    ((State.resetWith { Config.default with icacheFourWay := false }).csrWrite .t0 .dicawics 0xFFFFFFFF true).csrRead .t0 .dicawics =
      0x0111FFF8 := by decide

/-- While a store waits for the SoC, a write that halts waits with it; a read of `mpmc` and a write of 0 to `halt` do not (62 R815). -/
theorem test_firmwareHaltWaits :
    let s : State := { storeWaits with env := { storeWaits.env with stall := ⟨⟨true, false⟩, ⟨false, false⟩⟩ } }
    s.waitsForBus (.csrrwi 0 0x7C6 3) = true ∧ s.waitsForBus (.csrrwi 0 0x7C6 2) = false ∧ s.waitsForBus (.csrrs 5 0x7C6 0) = false ∧
    s.waitsForBus (.csrrci 0 0x7C6 1) = false := by decide

/-- While a store waits for the SoC, an atomic waits with it; in a build without atomics it is illegal at once, as the exception shows
(42_a.md R460(b), 60_exceptions.md R654). -/
theorem test_atomicsWait :
    let s : State := { storeWaits with env := { storeWaits.env with stall := ⟨⟨true, false⟩, ⟨false, false⟩⟩ } }
    let absent : State := { s with cfg := { s.cfg with atomicEnable := false } }
    s.waitsForBus (.lrW 5 6 false false) = true ∧ absent.waitsForBus (.lrW 5 6 false false) = false ∧
    (match absent.runInstr (.lrW 5 6 false false) with
     | .next t => ((t.hartAt .t0).trap.mcause == 2) && ((t.hartAt .t0).trap.mtval == 0x100322AF) &&
         ((t.hartAt .t0).buffer == (absent.hartAt .t0).buffer)
     | .fault _ => false
     | .refused _ => false) = true := by decide

/-- `mret` clears the reservation; the return itself does not (42_a.md R462 (4), 60_exceptions.md R676). -/
theorem test_mretReservation :
    ends (exec .mret (start [.reserved 0x80000])) [.free] = true ∧
    (start [.reserved 0x80000]).hart.mret.reservation = some 0x80000 := by decide

/-- A wrong check bit on the tag of an invalid way is an error of its set, and of no other (11 R107). -/
theorem test_invalidTagError :
    let k : ICache := { State.reset.icache with tags := [((1, 3), { valid := false, tag := 1, check := 0 })] }
    k.tagError State.reset.cfg 3 = true ∧ k.tagError State.reset.cfg 2 = false := by decide

/-- The timers of a hart 1 that has executed nothing stand, while its `mcycle` counts (11 R118, 10_state.md R43). -/
theorem test_startingTimers :
    let h : Hart := { State.reset.hart with starting := true }
    (h.tick 1 false 0 0).tim0.cnt = 0 ∧ (h.tick 1 false 0 0).ctr.mcycle = 1 ∧
    ({ h with starting := false }.tick 1 false 0 0).tim0.cnt = 1 := by decide

/-- The forced-debug-halt timeout goes on after the request is withdrawn, until `db-halt` (11 R122). -/
theorem test_timeoutGoesOn :
    let s := State.reset.mapHart fun h => { h with dbg := { h.dbg with timeout := 5 } }
    s.countsTimeout .t0 = true ∧ (s.mapHart fun h => { h with activity := .dbHalt }).countsTimeout .t0 = false ∧
    State.reset.countsTimeout .t0 = false := by decide

/-- A hart that the debugger and the MPC hold, with a PMU halt request pending, makes a single step: the MPC's run request is not
acknowledged before the PMU's run request, nor by the resume after it, which honours the PMU halt (62 R833). -/
theorem test_mpcRunAckWaits :
    let h : Hart := { State.reset.hart with
      activity := .dbHalt
      power := { PowerRegs.reset with pmuHaltPending := true }
      dbg := { DebugRegs.reset with step := true, dbgHaltState := true, mpcHaltState := true, resumePending := true, runPending := true } }
    let p : Pins := { State.reset.pins.t0 with mpcRunReq := true }
    let again : Hart := { h.resume with
      activity := .dbHalt, dbg := { h.resume.dbg with step := false, dbgHaltState := true, resumePending := true } }
    h.resume.activity = .running ∧ (p.handshake h.resume).mpcRunAck = false ∧
    again.resume.activity = .sleep ∧ (p.handshake { again.resume with activity := .running }).mpcRunAck = false ∧
    (p.handshake { again.resume with
      activity := .running, power := { again.resume.power with mpcRunOwed := false } }).mpcRunAck = true := by decide

/-- `PicWinner`: two candidates of one priority. -/
theorem witness_picWinner :
    let x : Source := { Source.reset with pri := 3, en := true, ip := true, edge := true }
    let p : Pic := ⟨false, [Source.reset, x, x]⟩
    p.sources[1]? = some x ∧ x.candidate true .t0 = true ∧ p.best true .t0 = (3, 2) := by decide

/-- `TimerPeriod`: a timer at 0. -/
theorem witness_timer : Timer.reset.cnt = 0 ∧ Timer.reset.written = none := ⟨by decide, by decide⟩

/-- `HartsAreApart`, `OnlyCsrInstructionsConfigure`: hart 1 started, and an instruction that completes. -/
theorem witness_apart : ends (exec (.addi 5 0 1) { State.reset with shared := { State.reset.shared with start1 := true } }) [.x 5 1] = true := by
  decide
end

section
/-! PROOFS. The integer instructions of 40_rv32i.md: `lui` and `auipc`, the register-immediate and the register-register
instructions, the branches. First the values of operands and operations in the arithmetic of integers and naturals, then the
words of a format as the fields in their order, then one rule per shape of instruction, and with these the statements. -/

namespace Sys2Proof.Machine

/-! ## Values -/

/-- The U immediate is a multiple of 2^12 (30_encoding.md R363). -/
theorem upperImm_eq_ofNat (imm : BitVec 20) : upperImm imm = BitVec.ofNat 32 (imm.toNat * 2 ^ 12) := by
  apply BitVec.eq_of_toNat_eq
  have hlt := imm.isLt
  simp only [upperImm, BitVec.toNat_append, BitVec.toNat_ofNat, Nat.shiftLeft_eq, Nat.zero_mod, Nat.or_zero]
  omega

/-- The branch offset is twice the signed immediate (R363). -/
theorem branchOffset_eq_ofInt (imm : BitVec 12) : branchOffset imm = BitVec.ofInt 32 (2 * imm.toInt) := by
  simp only [branchOffset, BitVec.signExtend, BitVec.toInt_append_zero, pow_one]

/-- Sign extension keeps the signed value (00_scope.md R12). -/
@[simp] theorem sext12_toInt (imm : BitVec 12) : (sext12 imm).toInt = imm.toInt :=
  BitVec.toInt_signExtend_of_le (by decide)

/-- A sum modulo 2^32 is that of the signed values. -/
theorem add_eq_ofInt (a b : Word) : a + b = BitVec.ofInt 32 (a.toInt + b.toInt) := by
  rw [BitVec.ofInt_add, BitVec.ofInt_toInt, BitVec.ofInt_toInt]

/-- A sum modulo 2^32 is that of the unsigned values. -/
theorem add_eq_ofNat (a b : Word) : a + b = BitVec.ofNat 32 (a.toNat + b.toNat) := by
  rw [BitVec.ofNat_add, BitVec.ofNat_toNat, BitVec.ofNat_toNat, BitVec.setWidth_eq, BitVec.setWidth_eq]

/-- A difference modulo 2^32 is that of the signed values. -/
theorem sub_eq_ofInt (a b : Word) : a - b = BitVec.ofInt 32 (a.toInt - b.toInt) := by
  rw [Int.sub_eq_add_neg, BitVec.ofInt_add, BitVec.ofInt_neg, BitVec.ofInt_toInt, BitVec.ofInt_toInt, BitVec.sub_eq_add_neg]

/-- A left shift multiplies by a power of two, modulo 2^32. -/
theorem shiftLeft_eq_ofNat (a : Word) (n : Nat) : a <<< n = BitVec.ofNat 32 (a.toNat * 2 ^ n) := by
  apply BitVec.eq_of_toNat_eq
  rw [BitVec.toNat_shiftLeft, BitVec.toNat_ofNat, Nat.shiftLeft_eq]

/-- A logical right shift divides the unsigned value by a power of two. -/
theorem ushiftRight_eq_ofNat (a : Word) (n : Nat) : a >>> n = BitVec.ofNat 32 (a.toNat / 2 ^ n) := by
  rw [← Nat.shiftRight_eq_div_pow, ← BitVec.toNat_ushiftRight, BitVec.ofNat_toNat, BitVec.setWidth_eq]

/-- An arithmetic right shift divides the signed value by a power of two, rounding down. -/
theorem sshiftRight_eq_ofInt (a : Word) (n : Nat) : a.sshiftRight n = BitVec.ofInt 32 (a.toInt / 2 ^ n) := by
  rw [BitVec.sshiftRight_eq, Int.shiftRight_eq_div_pow, Nat.cast_pow, Nat.cast_ofNat]

/-- The low five bits of a word are its value modulo 32. -/
theorem amount_eq_mod (b : Word) : amount b = b.toNat % 32 := by
  simp [amount]

/-- The signed order is that of the signed values (00_scope.md R12). -/
theorem lessSigned_eq_decide (a b : Word) : lessSigned a b = decide (a.toInt < b.toInt) := BitVec.slt_eq_decide

/-- The unsigned order is that of the unsigned values (R12). -/
theorem lessUnsigned_eq_decide (a b : Word) : lessUnsigned a b = decide (a.toNat < b.toNat) := BitVec.ult_eq_decide

/-- Not below in the signed order is at least, as `bge` asks (40_rv32i.md R408). -/
theorem not_lessSigned_eq_decide (a b : Word) : (!lessSigned a b) = decide (b.toInt ≤ a.toInt) := by
  rw [lessSigned_eq_decide, ← decide_not, decide_eq_decide, not_lt]

/-- Not below in the unsigned order is at least, as `bgeu` asks (R410). -/
theorem not_lessUnsigned_eq_decide (a b : Word) : (!lessUnsigned a b) = decide (b.toNat ≤ a.toNat) := by
  rw [lessUnsigned_eq_decide, ← decide_not, decide_eq_decide, not_lt]

/-- The 0 or 1 that a decided condition leaves. -/
theorem flagWord_decide (p : Prop) [Decidable p] : flagWord (decide p) = if p then 1 else 0 := by
  simp only [flagWord, decide_eq_true_eq]

/-- What `slt` and `slti` leave (R420, R431). -/
theorem flagWord_lessSigned (a b : Word) : flagWord (lessSigned a b) = if a.toInt < b.toInt then 1 else 0 := by
  rw [lessSigned_eq_decide, flagWord_decide]

/-- What `sltu` and `sltiu` leave (R421, R432). -/
theorem flagWord_lessUnsigned (a b : Word) : flagWord (lessUnsigned a b) = if a.toNat < b.toNat then 1 else 0 := by
  rw [lessUnsigned_eq_decide, flagWord_decide]

/-! ## Words of a format (30_encoding.md R362) -/

/-- The two fields of the I immediate, side by side, are the immediate. -/
theorem wordI_eq_append (imm : BitVec 12) (rs1 : RegIdx) (f3 : BitVec 3) (rd : RegIdx) (op : BitVec 7) :
    wordI imm rs1 f3 rd op = imm ++ rs1 ++ f3 ++ rd ++ op := by
  have himm : imm.extractLsb' 5 7 ++ imm.extractLsb' 0 5 = imm := BitVec.extractLsb'_append_extractLsb'
  rw [wordI, word32, himm]

/-- The four fields that a U immediate covers, side by side, are the immediate. -/
theorem wordU_eq_append (imm : BitVec 20) (rd : RegIdx) (op : BitVec 7) : wordU imm rd op = imm ++ rd ++ op := by
  have h8 : imm.extractLsb' 13 7 ++ imm.extractLsb' 8 5 = imm.extractLsb' 8 12 :=
    BitVec.extractLsb'_append_extractLsb'_eq_extractLsb' rfl
  have h3 : imm.extractLsb' 8 12 ++ imm.extractLsb' 3 5 = imm.extractLsb' 3 17 :=
    BitVec.extractLsb'_append_extractLsb'_eq_extractLsb' rfl
  have h0 : imm.extractLsb' 3 17 ++ imm.extractLsb' 0 3 = imm := BitVec.extractLsb'_append_extractLsb'
  rw [wordU, word32, h8, h3, h0]

/-- The B format, its two halves of the immediate written out. -/
theorem wordB_eq_append (imm : BitVec 12) (rs2 rs1 : RegIdx) (f3 : BitVec 3) (op : BitVec 7) :
    wordB imm rs2 rs1 f3 op = imm.extractLsb' 11 1 ++ imm.extractLsb' 4 6 ++ rs2 ++ rs1 ++ f3 ++
      imm.extractLsb' 0 4 ++ imm.extractLsb' 10 1 ++ op :=
  congrArg (fun high : BitVec 25 => (high ++ op : BitVec 32)) BitVec.append_assoc'

/-! ## One rule per shape

For an instruction given by name its code and its meaning hold by unfolding `encode` and `exec`, so that only its value is left. -/

section shapes
variable {f3 : BitVec 3} {evs : List Nat}

/-- An instruction that writes back the value of `f`. -/
theorem computesAlways_of_writeBack {i : Instr} {len : Nat} {rd : RegIdx} {f : State → Word}
    (hexec : ∀ s, exec i s = .next (s.writeBack len evs rd (f s))) : ComputesAlways i len rd f :=
  fun s => ⟨_, hexec s, s.writeBack_computes len evs rd (f s)⟩

/-- Instructions in the I format that run as `opImm`. -/
theorem isImmOp_of_opImm {i : RegIdx → RegIdx → BitVec 12 → Instr} {f : Word → BitVec 12 → Word}
    (g : BitVec 12 → Word → Word)
    (hvalue : ∀ a imm, g imm a = f a imm)
    (hcode : ∀ rd rs1 imm, encode (i rd rs1 imm) = .word (wordI imm rs1 f3 rd 0b0010011) := by intros; rfl)
    (hexec : ∀ rd rs1 imm s, exec (i rd rs1 imm) s = .next (s.opImm 4 evs rd rs1 (g imm)) := by intros; rfl) :
    IsImmOp i f3 f := by
  intro rd rs1 imm
  refine ⟨(hcode rd rs1 imm).trans (congrArg Code.word (wordI_eq_append imm rs1 f3 rd _)),
    fun s => ⟨_, hexec rd rs1 imm s, ?_⟩⟩
  rw [← hvalue]
  exact s.writeBack_computes 4 evs rd (g imm (s.reg rs1))

/-- Instructions with a five-bit shift amount that run as `opImm`. -/
theorem isShiftOp_of_opImm {i : RegIdx → RegIdx → BitVec 5 → Instr} {f7 : BitVec 7} {f : Word → Nat → Word}
    (g : Word → Nat → Word)
    (hvalue : ∀ a n, g a n = f a n)
    (hcode : ∀ rd rs1 shamt, encode (i rd rs1 shamt) = .word (word32 f7 shamt rs1 f3 rd 0b0010011) := by intros; rfl)
    (hexec : ∀ rd rs1 shamt s, exec (i rd rs1 shamt) s = .next (s.opImm 4 evs rd rs1 fun a => g a shamt.toNat) := by
      intros; rfl) :
    IsShiftOp i f7 f3 f :=
  fun rd rs1 shamt => ⟨hcode rd rs1 shamt, fun s =>
    ⟨_, _, hexec rd rs1 shamt s, s.writeBack_computes 4 evs rd _, hvalue (s.reg rs1) shamt.toNat⟩⟩

/-- Instructions in the R format that run as `opReg`. -/
theorem isRegOp_of_opReg {i : RegIdx → RegIdx → RegIdx → Instr} {f7 : BitVec 7} {f : Word → Word → Word}
    (g : Word → Word → Word)
    (hvalue : ∀ a b, g a b = f a b)
    (hcode : ∀ rd rs1 rs2, encode (i rd rs1 rs2) = .word (word32 f7 rs2 rs1 f3 rd 0b0110011) := by intros; rfl)
    (hexec : ∀ rd rs1 rs2 s, exec (i rd rs1 rs2) s = .next (s.opReg evs rd rs1 rs2 g) := by intros; rfl) :
    IsRegOp i f7 f3 f :=
  fun rd rs1 rs2 => ⟨hcode rd rs1 rs2, fun s =>
    ⟨_, _, hexec rd rs1 rs2 s, s.writeBack_computes 4 evs rd _, hvalue (s.reg rs1) (s.reg rs2)⟩⟩

/-- Instructions in the B format that run as `branch`. -/
theorem isBranch_of_branch {i : RegIdx → RegIdx → BitVec 12 → Instr} {taken : Word → Word → Bool}
    (c : Word → Word → Bool)
    (htaken : ∀ a b, c a b = taken a b)
    (hcode : ∀ rs1 rs2 imm, encode (i rs1 rs2 imm) = .word (wordB imm rs2 rs1 f3 0b1100011) := by intros; rfl)
    (hexec : ∀ rs1 rs2 imm s,
      exec (i rs1 rs2 imm) s = .next (s.branch 4 (c (s.reg rs1) (s.reg rs2)) (branchOffset imm)) := by intros; rfl) :
    IsBranch i f3 taken := by
  intro rs1 rs2 imm
  refine ⟨(hcode rs1 rs2 imm).trans (congrArg Code.word (wordB_eq_append imm rs2 rs1 f3 _)),
    fun s => ⟨_, hexec rs1 rs2 imm s, ?_⟩⟩
  rw [← htaken, ← branchOffset_eq_ofInt]
  exact s.branch_goes 4 (c (s.reg rs1) (s.reg rs2)) (branchOffset imm)

end shapes

/-! ## The statements -/

/-- Settles O5: `lui` writes back the U immediate, `auipc` adds its own `pc` to it. -/
theorem upperImmediates : Obligations.UpperImmediates := by
  unfold Obligations.UpperImmediates
  intro rd imm
  rw [← upperImm_eq_ofNat]
  exact ⟨congrArg Code.word (wordU_eq_append imm rd _), congrArg Code.word (wordU_eq_append imm rd _),
    computesAlways_of_writeBack fun _ => rfl, computesAlways_of_writeBack fun _ => rfl⟩

/-- Settles O6: each instruction is `opImm` with its own operation, whose value the lemmas above give. -/
theorem immediateOperations : Obligations.ImmediateOperations := by
  unfold Obligations.ImmediateOperations
  refine ⟨?addi, ?slti, ?sltiu, ?xori, ?ori, ?andi, ?slli, ?srli, ?srai⟩
  case addi =>
    refine isImmOp_of_opImm (fun imm a => a + sext12 imm) fun a imm => ?_
    rw [add_eq_ofInt, sext12_toInt]
  case slti =>
    refine isImmOp_of_opImm (fun imm a => flagWord (lessSigned a (sext12 imm))) fun a imm => ?_
    rw [flagWord_lessSigned, sext12_toInt]
  case sltiu =>
    exact isImmOp_of_opImm (fun imm a => flagWord (lessUnsigned a (sext12 imm))) fun a imm =>
      flagWord_lessUnsigned a (sext12 imm)
  case xori =>
    exact isImmOp_of_opImm (fun imm a => a ^^^ sext12 imm) fun _ _ => rfl
  case ori =>
    exact isImmOp_of_opImm (fun imm a => a ||| sext12 imm) fun _ _ => rfl
  case andi =>
    exact isImmOp_of_opImm (fun imm a => a &&& sext12 imm) fun _ _ => rfl
  case slli =>
    exact isShiftOp_of_opImm (fun a n => a <<< n) shiftLeft_eq_ofNat
  case srli =>
    exact isShiftOp_of_opImm (fun a n => a >>> n) ushiftRight_eq_ofNat
  case srai =>
    exact isShiftOp_of_opImm BitVec.sshiftRight sshiftRight_eq_ofInt

/-- Settles O7: each instruction is `opReg` with its own operation; a shift takes its amount modulo 32. -/
theorem registerOperations : Obligations.RegisterOperations := by
  unfold Obligations.RegisterOperations
  refine ⟨?add, ?sub, ?slt, ?sltu, ?xor, ?or, ?and, ?sll, ?srl, ?sra⟩
  case add =>
    exact isRegOp_of_opReg (fun a b => a + b) add_eq_ofNat
  case sub =>
    exact isRegOp_of_opReg (fun a b => a - b) sub_eq_ofInt
  case slt =>
    exact isRegOp_of_opReg (fun a b => flagWord (lessSigned a b)) flagWord_lessSigned
  case sltu =>
    exact isRegOp_of_opReg (fun a b => flagWord (lessUnsigned a b)) flagWord_lessUnsigned
  case xor =>
    exact isRegOp_of_opReg (fun a b => a ^^^ b) fun _ _ => rfl
  case or =>
    exact isRegOp_of_opReg (fun a b => a ||| b) fun _ _ => rfl
  case and =>
    exact isRegOp_of_opReg (fun a b => a &&& b) fun _ _ => rfl
  case sll =>
    refine isRegOp_of_opReg (fun a b => a <<< amount b) fun a b => ?_
    rw [shiftLeft_eq_ofNat, amount_eq_mod]
  case srl =>
    refine isRegOp_of_opReg (fun a b => a >>> amount b) fun a b => ?_
    rw [ushiftRight_eq_ofNat, amount_eq_mod]
  case sra =>
    refine isRegOp_of_opReg (fun a b => a.sshiftRight (amount b)) fun a b => ?_
    rw [sshiftRight_eq_ofInt, amount_eq_mod]

/-- Settles O9: each instruction is `branch` with its own comparison. -/
theorem branches : Obligations.Branches := by
  unfold Obligations.Branches
  refine ⟨?beq, ?bne, ?blt, ?bge, ?bltu, ?bgeu⟩
  case beq =>
    exact isBranch_of_branch (fun a b => a == b) beq_eq_decide
  case bne =>
    exact isBranch_of_branch (fun a b => a != b) fun a b => by rw [bne, beq_eq_decide, decide_not]
  case blt =>
    exact isBranch_of_branch lessSigned lessSigned_eq_decide
  case bge =>
    exact isBranch_of_branch (fun a b => !lessSigned a b) not_lessSigned_eq_decide
  case bltu =>
    exact isBranch_of_branch lessUnsigned lessUnsigned_eq_decide
  case bgeu =>
    exact isBranch_of_branch (fun a b => !lessUnsigned a b) not_lessUnsigned_eq_decide

end Sys2Proof.Machine
end

section
/-! PROOFS. Multiply and divide (41_m.md): the operations of the model in the arithmetic of integers and naturals, and with
these the statement. Each instruction has the R-format rule `isRegOp_of_opReg`, so that only its value is left. -/

namespace Sys2Proof.Machine

/-! ## Values -/

/-- A product modulo 2^32 is that of the unsigned values (R451). -/
theorem mul_eq_ofNat (a b : Word) : a * b = BitVec.ofNat 32 (a.toNat * b.toNat) := by
  rw [BitVec.ofNat_mul, BitVec.ofNat_toNat, BitVec.ofNat_toNat, BitVec.setWidth_eq, BitVec.setWidth_eq]

/-- The high half of a product kept modulo 2^64 is the exact product divided by 2^32, rounding down. -/
theorem productHigh_eq_ofInt (p : Int) : productHigh p = BitVec.ofInt 32 (p / 2 ^ 32) := by
  apply BitVec.eq_of_toNat_eq
  simp only [productHigh, BitVec.extractLsb'_toNat, BitVec.toNat_ofInt, Nat.shiftRight_eq_div_pow]
  omega

/-- The high half of the product of two unsigned values (R454). -/
theorem mulHighU_eq_ofNat (a b : Word) : mulHighU a b = BitVec.ofNat 32 (a.toNat * b.toNat / 2 ^ 32) := by
  rw [mulHighU, productHigh_eq_ofInt, ← BitVec.ofInt_natCast]
  norm_cast

/-- Signed division needs no case of its own for the overflow: the quotient 2^31 wraps to the dividend -2^31 (R455). -/
theorem divSigned_eq_ofInt (a b : Word) :
    divSigned a b = if b = 0 then 0xFFFFFFFF else BitVec.ofInt 32 (a.toInt.tdiv b.toInt) := by
  rw [divSigned]
  congr 1
  split
  case isTrue hover =>
    obtain ⟨rfl, rfl⟩ := hover
    decide
  case isFalse => rfl

/-- Nor does the signed remainder: an overflowing division leaves 0, and a remainder is what `tmod` leaves (R457). -/
theorem remSigned_eq_ofInt (a b : Word) :
    remSigned a b = if b = 0 then a else BitVec.ofInt 32 (a.toInt.tmod b.toInt) := by
  rw [remSigned]
  congr 1
  split
  case isTrue hover =>
    obtain ⟨rfl, rfl⟩ := hover
    decide
  case isFalse => rw [Int.tmod_def]

/-! ## The statement -/

/-- Settles O10: each instruction is `opReg` with its own operation. The high products are quotients by 2^32, and the wrapped
overflow of `div` and `rem` is that of the exact quotient and remainder. -/
theorem multiplyAndDivide : Obligations.MultiplyAndDivide := by
  unfold Obligations.MultiplyAndDivide
  refine ⟨?mul, ?mulh, ?mulhsu, ?mulhu, ?div, ?divu, ?rem, ?remu⟩
  case mul =>
    exact isRegOp_of_opReg (fun a b => a * b) mul_eq_ofNat
  case mulh =>
    exact isRegOp_of_opReg mulHigh fun a b => productHigh_eq_ofInt (a.toInt * b.toInt)
  case mulhsu =>
    exact isRegOp_of_opReg mulHighSU fun a b => productHigh_eq_ofInt (a.toInt * b.toNat)
  case mulhu =>
    exact isRegOp_of_opReg mulHighU mulHighU_eq_ofNat
  case div =>
    exact isRegOp_of_opReg divSigned divSigned_eq_ofInt
  case divu =>
    exact isRegOp_of_opReg divUnsigned fun _ _ => rfl
  case rem =>
    exact isRegOp_of_opReg remSigned remSigned_eq_ofInt
  case remu =>
    exact isRegOp_of_opReg remUnsigned fun _ _ => rfl

end Sys2Proof.Machine
end

section
/-! PROOFS. Bit manipulation, Zba, Zbb, Zbc and Zbs (45_bitmanip_zba_zbb_zbc_zbs.md): the operations of the model in the
arithmetic of integers and naturals or bit by bit, the rules for instructions whose result is given by a relation, and with
these the statements. -/

namespace Sys2Proof.Machine

/-! ## Shifted additions, minima, maxima -/

/-- An index shifted left and added to a base (R551 to R553). -/
theorem add_shiftLeft_eq_ofNat (n : Nat) (a b : Word) : b + a <<< n = BitVec.ofNat 32 (b.toNat + 2 ^ n * a.toNat) := by
  rw [shiftLeft_eq_ofNat, BitVec.ofNat_add, BitVec.ofNat_toNat, BitVec.setWidth_eq, Nat.mul_comm]

/-- By an order that is that of the values of `f`, the smaller word has the smaller value (R557, R558). -/
theorem pickLess_eq_min {α : Type} [LinearOrder α] {less : Word → Word → Bool} (f : Word → α) (g : α → Word)
    (hback : ∀ a, g (f a) = a) (hless : ∀ a b, less a b = decide (f a < f b)) (a b : Word) :
    pickLess less a b = g (min (f a) (f b)) := by
  rw [min_def_lt, apply_ite g, hback, hback, pickLess, hless]
  simp only [decide_eq_true_eq]

/-- The larger word has the larger value (R559, R560). -/
theorem pickGreater_eq_max {α : Type} [LinearOrder α] {less : Word → Word → Bool} (f : Word → α) (g : α → Word)
    (hback : ∀ a, g (f a) = a) (hless : ∀ a b, less a b = decide (f a < f b)) (a b : Word) :
    pickGreater less a b = g (max (f a) (f b)) := by
  rw [max_def_lt, apply_ite g, hback, hback, pickGreater, hless]
  simp only [decide_eq_true_eq]

/-! ## Counts of bits -/

/-- The low `n + 1` bits as a number: bit `n` above the low `n` bits. -/
theorem toNat_mod_two_pow_succ (v : Word) (n : Nat) :
    v.toNat % 2 ^ (n + 1) = 2 ^ n * (v.getLsbD n).toNat + v.toNat % 2 ^ n := by
  rw [Nat.mod_pow_succ, BitVec.getLsbD, Nat.toNat_testBit, Nat.add_comm]

/-- At most `n` of the low `n` bits are leading zeros. -/
theorem leadingZeros_le (v : Word) (n : Nat) : leadingZeros v n ≤ n := by
  fun_induction leadingZeros v n with
  | case1 => exact le_rfl
  | case2 n hbit => exact Nat.zero_le _
  | case3 n hbit ih => omega

/-- Without its leading zeros the number in the low `n` bits has `n - leadingZeros v n` bits. -/
theorem toNat_mod_lt_leadingZeros (v : Word) (n : Nat) : v.toNat % 2 ^ n < 2 ^ (n - leadingZeros v n) := by
  fun_induction leadingZeros v n with
  | case1 => exact Nat.mod_lt _ (by decide)
  | case2 n hbit => exact Nat.mod_lt _ (Nat.two_pow_pos _)
  | case3 n hbit ih =>
    rw [toNat_mod_two_pow_succ, Bool.eq_false_of_not_eq_true hbit, Nat.add_comm 1, Nat.succ_sub_succ]
    simpa using ih

/-- The bit below the leading zeros is 1, unless they are all of the low `n` bits. -/
theorem le_toNat_mod_leadingZeros (v : Word) (n : Nat) (h : leadingZeros v n < n) :
    2 ^ (n - 1 - leadingZeros v n) ≤ v.toNat % 2 ^ n := by
  fun_induction leadingZeros v n with
  | case1 => omega
  | case2 n hbit =>
    rw [toNat_mod_two_pow_succ, hbit]
    simp
  | case3 n hbit ih =>
    have hn : n + 1 - 1 - (1 + leadingZeros v n) = n - 1 - leadingZeros v n := by omega
    rw [toNat_mod_two_pow_succ, Bool.eq_false_of_not_eq_true hbit, hn]
    simpa using ih (by omega)

/-- No more than `n` bits are counted. -/
theorem trailingZeros_le (v : Word) (i n : Nat) : trailingZeros v i n ≤ n := by
  fun_induction trailingZeros v i n with
  | case1 => exact le_rfl
  | case2 i n hbit => exact Nat.zero_le _
  | case3 i n hbit ih => omega

/-- The counted bits are 0. -/
theorem getLsbD_of_lt_trailingZeros (v : Word) (i n j : Nat) (h : j < trailingZeros v i n) : v.getLsbD (i + j) = false := by
  fun_induction trailingZeros v i n generalizing j with
  | case1 => omega
  | case2 i n hbit => omega
  | case3 i n hbit ih =>
    cases j with
    | zero => exact Bool.eq_false_of_not_eq_true hbit
    | succ j =>
      rw [Nat.add_comm j, ← Nat.add_assoc]
      exact ih j (by omega)

/-- The bit above the counted ones is 1, unless all `n` bits were counted. -/
theorem getLsbD_trailingZeros (v : Word) (i n : Nat) (h : trailingZeros v i n < n) :
    v.getLsbD (i + trailingZeros v i n) = true := by
  fun_induction trailingZeros v i n with
  | case1 => omega
  | case2 i n hbit => exact hbit
  | case3 i n hbit ih =>
    rw [← Nat.add_assoc]
    exact ih (by omega)

/-- The count of ones is the number of the places that hold a 1. -/
theorem countOnes_eq_length_filter (v : Word) (n : Nat) :
    countOnes v n = ((List.range n).filter fun i => v.getLsbD i).length := by
  induction n with
  | zero => rfl
  | succ n ih =>
    rw [countOnes, ih, List.range_succ, List.filter_append, List.length_append, List.filter_singleton]
    cases v.getLsbD n <;> rfl

/-- A count of at most 32 as a word. -/
theorem toNat_ofNat_of_le_32 {n : Nat} (h : n ≤ 32) : (BitVec.ofNat 32 n).toNat = n :=
  Nat.mod_eq_of_lt (by omega)

/-! ## Extensions -/

/-- The low `w + 1` bits, sign-extended: with 2^w added, a sign bit of 1 becomes a carry that the modulus drops. -/
theorem signExtend_low_eq_ofInt (w : Nat) (v : Word) :
    (v.extractLsb' 0 (w + 1)).signExtend 32 = BitVec.ofInt 32 (((v.toNat + 2 ^ w) % 2 ^ (w + 1) : Nat) - 2 ^ w) := by
  have hpow : 2 ^ (w + 1) = 2 * 2 ^ w := Nat.pow_succ'
  have hcast : ((2 ^ w : Nat) : Int) = 2 ^ w := by norm_cast
  have hlt : v.toNat % 2 ^ (w + 1) < 2 ^ (w + 1) := Nat.mod_lt _ (Nat.two_pow_pos _)
  rw [BitVec.signExtend, BitVec.toInt_eq_toNat_cond, BitVec.extractLsb'_toNat, Nat.shiftRight_zero, ← Nat.mod_add_mod]
  congr 1
  generalize v.toNat % 2 ^ (w + 1) = x at *
  split
  case isTrue hpos =>
    rw [Nat.mod_eq_of_lt (by omega)]
    omega
  case isFalse hneg =>
    rw [Nat.mod_eq_sub_mod (by omega), Nat.mod_eq_of_lt (by omega)]
    omega

/-- The low 16 bits, zero-extended (R563). -/
theorem zext16_eq_ofNat (v : Word) : zext16 v = BitVec.ofNat 32 (v.toNat % 2 ^ 16) := by
  apply BitVec.eq_of_toNat_eq
  simp [zext16]

/-! ## Rotations -/

/-- Bit `i` of a word rotated right is the bit `n` places up, round the word (R568). -/
theorem getLsbD_rotateRight (v : Word) {n i : Nat} (hn : n < 32) (hi : i < 32) :
    (rotateRight v n).getLsbD i = v.getLsbD ((i + n) % 32) := by
  simp only [rotateRight, BitVec.getLsbD_or, BitVec.getLsbD_ushiftRight, BitVec.getLsbD_shiftLeft, hi, decide_true,
    Bool.true_and]
  by_cases hround : i + n < 32
  · rw [Nat.mod_eq_of_lt hround, Nat.add_comm n]
    rcases Nat.eq_zero_or_pos n with rfl | hpos
    · simp
    · have hlow : i < (32 - n) % 32 := by omega
      simp [hlow]
  · have hhigh : ¬ i < (32 - n) % 32 := by omega
    have hplace : i - (32 - n) % 32 = (i + n) % 32 := by omega
    rw [BitVec.getLsbD_of_ge v (n + i) (by omega), hplace]
    simp [hhigh]

/-- A rotation to the left is one to the right by the rest of the 32 places. -/
theorem rotateLeft_eq_rotateRight (v : Word) {n : Nat} (hn : n < 32) : rotateLeft v n = rotateRight v ((32 - n) % 32) := by
  have hrest : (32 - (32 - n) % 32) % 32 = n := by omega
  rw [rotateLeft, rotateRight, hrest, BitVec.or_comm]

/-- Rotated left, bit `i` goes `n` places up, round the word (R567). -/
theorem getLsbD_rotateLeft (v : Word) {n i : Nat} (hn : n < 32) (hi : i < 32) :
    (rotateLeft v n).getLsbD ((i + n) % 32) = v.getLsbD i := by
  rw [rotateLeft_eq_rotateRight v hn, getLsbD_rotateRight v (by omega) (by omega)]
  congr 1
  omega

/-! ## Bytes -/

/-- A bit of a word made of four bytes. -/
theorem getLsbD_append_bytes (f : Nat → Byte) {i : Nat} (hi : i < 32) :
    BitVec.getLsbD (w := 8 + 8 + 8 + 8) (f 3 ++ f 2 ++ f 1 ++ f 0) i = (f (i / 8)).getLsbD (i % 8) := by
  simp only [BitVec.getLsbD_append]
  split_ifs with h0 h1 h2
  · rw [show i / 8 = 0 by omega, show i % 8 = i by omega]
  · rw [show i / 8 = 1 by omega, show i % 8 = i - 8 by omega]
  · rw [show i / 8 = 2 by omega, show i % 8 = i - 8 - 8 by omega]
  · rw [show i / 8 = 3 by omega, show i % 8 = i - 8 - 8 - 8 by omega]

/-- Byte `k` of the reversed word is byte `3 - k` (R570). -/
theorem getLsbD_byteReverse (v : Word) {i : Nat} (hi : i < 32) :
    (byteReverse v).getLsbD i = v.getLsbD (8 * (3 - i / 8) + i % 8) := by
  have hlt : i % 8 < 8 := Nat.mod_lt _ (by decide)
  have hbytes := getLsbD_append_bytes (fun k => v.extractLsb' (8 * (3 - k)) 8) hi
  rwa [BitVec.getLsbD_extractLsb', decide_eq_true hlt, Bool.true_and] at hbytes

/-- Every bit of a filled byte is the disjunction of the byte's bits. -/
theorem getLsbD_fillByte (b : Byte) {i : Nat} (hi : i < 8) : (fillByte b).getLsbD i = (List.range 8).any b.getLsbD := by
  by_cases hzero : b = 0
  · subst hzero
    simp [fillByte]
  · have hones : (0xFF : Byte) = BitVec.allOnes 8 := rfl
    obtain ⟨j, hj, hbit⟩ : ∃ j < 8, b.getLsbD j = true := by
      by_contra! hclear
      exact hzero (BitVec.eq_of_getLsbD_eq fun j hj => by simpa using hclear j hj)
    rw [fillByte, if_neg hzero, hones, BitVec.getLsbD_allOnes, decide_eq_true hi]
    exact (List.any_eq_true.mpr ⟨j, List.mem_range.mpr hj, hbit⟩).symm

/-- Every bit is the disjunction of the bits of its byte (R571). -/
theorem getLsbD_orcBytes (v : Word) {i : Nat} (hi : i < 32) :
    (orcBytes v).getLsbD i = (List.range 8).any fun j => v.getLsbD (i / 8 * 8 + j) := by
  have hbytes := getLsbD_append_bytes (fun k => fillByte (v.extractLsb' (8 * k) 8)) hi
  rw [getLsbD_fillByte _ (Nat.mod_lt _ (by decide))] at hbytes
  refine Eq.trans hbytes (Bool.eq_iff_iff.mpr ?_)
  simp only [List.any_eq_true, List.mem_range]
  refine exists_congr fun j => and_congr_right fun hj => ?_
  rw [BitVec.getLsbD_extractLsb', decide_eq_true hj, Bool.true_and, Nat.mul_comm]

/-! ## Carry-less products -/

/-- The bits `j` below `n` of `b` that are 1 together with bit `i - j` of `a`: the pairs behind bit `i` of the product. -/
def bitPairs (a b : Word) (n i : Nat) : List Nat :=
  (List.range n).filter fun j => b.getLsbD j && decide (j ≤ i) && a.getLsbD (i - j)

/-- The next bit of `b` adds a pair or none. -/
theorem length_bitPairs_succ (a b : Word) (n i : Nat) : (bitPairs a b (n + 1) i).length =
    (bitPairs a b n i).length + (b.getLsbD n && decide (n ≤ i) && a.getLsbD (i - n)).toNat := by
  rw [bitPairs, List.range_succ, List.filter_append, List.length_append, List.filter_singleton, bitPairs]
  cases b.getLsbD n && decide (n ≤ i) && a.getLsbD (i - n) <;> rfl

/-- A bit added to a number flips the parity if it is 1. -/
theorem decide_odd_add_toNat (n : Nat) (c : Bool) : decide ((n + c.toNat) % 2 = 1) = (decide (n % 2 = 1) ^^ c) := by
  cases c with
  | false => rw [Bool.toNat_false, Nat.add_zero, Bool.xor_false]
  | true =>
    rw [Bool.toNat_true, Bool.xor_true, ← decide_not, decide_eq_decide]
    omega

/-- A bit of the term that bit `n` of `b` adds to the product. -/
theorem getLsbD_clTerm (a b : Word) (n : Nat) {i : Nat} (hi : i < 64) :
    (if b.getLsbD n then a.setWidth 64 <<< n else 0 : DWord).getLsbD i =
      (b.getLsbD n && decide (n ≤ i) && a.getLsbD (i - n)) := by
  cases b.getLsbD n with
  | false => simp
  | true =>
    have hlt : i - n < 64 := by omega
    rw [if_pos rfl, BitVec.getLsbD_shiftLeft, BitVec.getLsbD_setWidth]
    simp only [hi, hlt, ← decide_not, not_lt, decide_true, Bool.true_and]

/-- A bit of the product by the low `n` bits of `b` is the parity of its pairs. -/
theorem getLsbD_clProduct (a b : Word) (n : Nat) {i : Nat} (hi : i < 64) :
    (clProduct a b n).getLsbD i = decide ((bitPairs a b n i).length % 2 = 1) := by
  induction n with
  | zero => simp [clProduct, bitPairs]
  | succ n ih => rw [clProduct, BitVec.getLsbD_xor, ih, getLsbD_clTerm a b n hi, length_bitPairs_succ, decide_odd_add_toNat]

/-- The word of the product from bit `k` on (R572 to R574). -/
theorem getLsbD_extractLsb'_clProduct (a b : Word) {k i : Nat} (hk : k ≤ 32) (hi : i < 32) :
    ((clProduct a b 32).extractLsb' k 32).getLsbD i = decide ((bitPairs a b 32 (i + k)).length % 2 = 1) := by
  rw [BitVec.getLsbD_extractLsb', decide_eq_true hi, Bool.true_and, getLsbD_clProduct a b 32 (by omega), Nat.add_comm]

/-! ## Single bits -/

/-- The mask has bit `n` alone. -/
theorem getLsbD_bitMask (n : Nat) {i : Nat} (hi : i < 32) : (bitMask n).getLsbD i = (i == n) := by
  rw [bitMask, ← BitVec.twoPow_eq, BitVec.getLsbD_twoPow, Bool.eq_iff_iff, beq_iff_eq, Bool.and_eq_true, decide_eq_true_eq,
    decide_eq_true_eq]
  omega

/-- One bit set (R575). -/
theorem getLsbD_or_bitMask (v : Word) (n : Nat) {i : Nat} (hi : i < 32) :
    (v ||| bitMask n).getLsbD i = (v.getLsbD i || i == n) := by
  rw [BitVec.getLsbD_or, getLsbD_bitMask n hi]

/-- One bit cleared (R577). -/
theorem getLsbD_and_not_bitMask (v : Word) (n : Nat) {i : Nat} (hi : i < 32) :
    (v &&& ~~~bitMask n).getLsbD i = (v.getLsbD i && i != n) := by
  rw [BitVec.getLsbD_and, BitVec.getLsbD_not, getLsbD_bitMask n hi, decide_eq_true hi, Bool.true_and, bne]

/-- One bit inverted (R579). -/
theorem getLsbD_xor_bitMask (v : Word) (n : Nat) {i : Nat} (hi : i < 32) :
    (v ^^^ bitMask n).getLsbD i = (v.getLsbD i != (i == n)) := by
  rw [BitVec.getLsbD_xor, getLsbD_bitMask n hi, Bool.bne_eq_xor]

/-- One bit as a word (R581). -/
theorem ushiftRight_and_one_eq_ofNat (v : Word) (n : Nat) : v >>> n &&& 1 = BitVec.ofNat 32 (v.getLsbD n).toNat := by
  have hbit : (v >>> n).getLsbD 0 = v.getLsbD n := by rw [BitVec.getLsbD_ushiftRight, Nat.add_zero]
  rw [BitVec.ofNat_eq_ofNat, BitVec.and_one_eq_setWidth_ofBool_getLsbD, hbit]
  cases v.getLsbD n <;> rfl

/-! ## One rule per shape, with the result given by a relation

As the rules above for a result given by a function: what is left is that the operation's value satisfies the relation. -/

section relations
variable {f3 : BitVec 3} {evs : List Nat}

/-- Instructions in the R format that run as `opReg`. -/
theorem isRegRel_of_opReg {i : RegIdx → RegIdx → RegIdx → Instr} {f7 : BitVec 7} {R : Word → Word → Word → Prop}
    (g : Word → Word → Word)
    (hvalue : ∀ a b, R a b (g a b))
    (hcode : ∀ rd rs1 rs2, encode (i rd rs1 rs2) = .word (word32 f7 rs2 rs1 f3 rd 0b0110011) := by intros; rfl)
    (hexec : ∀ rd rs1 rs2 s, exec (i rd rs1 rs2) s = .next (s.opReg evs rd rs1 rs2 g) := by intros; rfl) :
    IsRegRel i f7 f3 R :=
  fun rd rs1 rs2 => ⟨hcode rd rs1 rs2, fun s =>
    ⟨_, _, hexec rd rs1 rs2 s, s.writeBack_computes 4 evs rd _, hvalue (s.reg rs1) (s.reg rs2)⟩⟩

/-- Instructions with a five-bit shift amount that run as `opImm`. -/
theorem isShiftRel_of_opImm {i : RegIdx → RegIdx → BitVec 5 → Instr} {f7 : BitVec 7} {R : Word → Nat → Word → Prop}
    (g : Word → Nat → Word)
    (hvalue : ∀ a n, n < 32 → R a n (g a n))
    (hcode : ∀ rd rs1 shamt, encode (i rd rs1 shamt) = .word (word32 f7 shamt rs1 f3 rd 0b0010011) := by intros; rfl)
    (hexec : ∀ rd rs1 shamt s, exec (i rd rs1 shamt) s = .next (s.opImm 4 evs rd rs1 fun a => g a shamt.toNat) := by
      intros; rfl) :
    IsShiftRel i f7 f3 R :=
  fun rd rs1 shamt => ⟨hcode rd rs1 shamt, fun s =>
    ⟨_, _, hexec rd rs1 shamt s, s.writeBack_computes 4 evs rd _, hvalue (s.reg rs1) shamt.toNat shamt.isLt⟩⟩

/-- Instructions with one operand that run as `opImm`. -/
theorem isUnaryRel_of_opImm {i : RegIdx → RegIdx → Instr} {top : BitVec 12} {R : Word → Word → Prop}
    (g : Word → Word)
    (hvalue : ∀ a, R a (g a))
    (hcode : ∀ rd rs1, encode (i rd rs1) = .word (top ++ rs1 ++ f3 ++ rd ++ 0b0010011#7) := by intros; rfl)
    (hexec : ∀ rd rs1 s, exec (i rd rs1) s = .next (s.opImm 4 evs rd rs1 g) := by intros; rfl) :
    IsUnaryRel i top f3 R :=
  fun rd rs1 => ⟨hcode rd rs1, fun s =>
    ⟨_, _, hexec rd rs1 s, s.writeBack_computes 4 evs rd _, hvalue (s.reg rs1)⟩⟩

end relations

/-! ## The statements -/

/-- Settles O11: each instruction is `opReg` with its own operation; the index `rs1` is the shifted one. -/
theorem shiftedAddsMinimaMaxima : Obligations.ShiftedAddsMinimaMaxima := by
  unfold Obligations.ShiftedAddsMinimaMaxima
  have hsigned (a : Word) : BitVec.ofInt 32 a.toInt = a := BitVec.ofInt_toInt
  have hunsigned (a : Word) : BitVec.ofNat 32 a.toNat = a := BitVec.ofNat_toNat 32 a ▸ BitVec.setWidth_eq a
  refine ⟨?sh1add, ?sh2add, ?sh3add, ?min, ?minu, ?max, ?maxu⟩
  case sh1add => exact isRegOp_of_opReg (fun a b => b + a <<< 1) (add_shiftLeft_eq_ofNat 1)
  case sh2add => exact isRegOp_of_opReg (fun a b => b + a <<< 2) (add_shiftLeft_eq_ofNat 2)
  case sh3add => exact isRegOp_of_opReg (fun a b => b + a <<< 3) (add_shiftLeft_eq_ofNat 3)
  case min => exact isRegOp_of_opReg (pickLess lessSigned) (pickLess_eq_min _ _ hsigned lessSigned_eq_decide)
  case minu => exact isRegOp_of_opReg (pickLess lessUnsigned) (pickLess_eq_min _ _ hunsigned lessUnsigned_eq_decide)
  case max => exact isRegOp_of_opReg (pickGreater lessSigned) (pickGreater_eq_max _ _ hsigned lessSigned_eq_decide)
  case maxu => exact isRegOp_of_opReg (pickGreater lessUnsigned) (pickGreater_eq_max _ _ hunsigned lessUnsigned_eq_decide)

/-- Settles O12: each count is at most 32, so that the word written is the count itself. -/
theorem bitCounts : Obligations.BitCounts := by
  unfold Obligations.BitCounts
  refine ⟨?clz, ?ctz, ?cpop⟩
  case clz =>
    refine isUnaryRel_of_opImm (fun a => BitVec.ofNat 32 (leadingZeros a 32)) fun a => ?_
    have hmod : a.toNat % 2 ^ 32 = a.toNat := Nat.mod_eq_of_lt a.isLt
    rw [toNat_ofNat_of_le_32 (leadingZeros_le a 32), ← hmod]
    exact ⟨leadingZeros_le a 32, toNat_mod_lt_leadingZeros a 32, le_toNat_mod_leadingZeros a 32⟩
  case ctz =>
    refine isUnaryRel_of_opImm (fun a => BitVec.ofNat 32 (trailingZeros a 0 32)) fun a => ?_
    rw [toNat_ofNat_of_le_32 (trailingZeros_le a 0 32)]
    refine ⟨trailingZeros_le a 0 32, fun i hi => ?_, fun h => ?_⟩
    · simpa using getLsbD_of_lt_trailingZeros a 0 32 i hi
    · simpa using getLsbD_trailingZeros a 0 32 h
  case cpop =>
    exact isUnaryRel_of_opImm (fun a => BitVec.ofNat 32 (countOnes a 32)) fun a =>
      congrArg (BitVec.ofNat 32) (countOnes_eq_length_filter a 32)

/-- Settles O13: the extensions as the arithmetic of their low bits, the negated operations bit by bit. -/
theorem extensionsAndNegatedLogic : Obligations.ExtensionsAndNegatedLogic := by
  unfold Obligations.ExtensionsAndNegatedLogic
  refine ⟨?sextB, ?sextH, ?zextH, ?andn, ?orn, ?xnor⟩
  case sextB => exact isUnaryRel_of_opImm sext8 (signExtend_low_eq_ofInt 7)
  case sextH => exact isUnaryRel_of_opImm sext16 (signExtend_low_eq_ofInt 15)
  case zextH =>
    intro rd rs1
    simp only [← zext16_eq_ofNat]
    exact ⟨rfl, computesAlways_of_writeBack fun _ => rfl⟩
  case andn =>
    refine isRegRel_of_opReg (fun a b => a &&& ~~~b) fun a b i hi => ?_
    rw [BitVec.getLsbD_and, BitVec.getLsbD_not, decide_eq_true hi, Bool.true_and]
  case orn =>
    refine isRegRel_of_opReg (fun a b => a ||| ~~~b) fun a b i hi => ?_
    rw [BitVec.getLsbD_or, BitVec.getLsbD_not, decide_eq_true hi, Bool.true_and]
  case xnor =>
    refine isRegRel_of_opReg (fun a b => ~~~(a ^^^ b)) fun a b i hi => ?_
    rw [BitVec.getLsbD_not, BitVec.getLsbD_xor, decide_eq_true hi, Bool.true_and, ← Bool.bne_eq_xor, bne, Bool.not_not]

/-- Settles O14: a rotation takes its amount modulo 32, and so may the place of a bit. -/
theorem rotationsAndByteOperations : Obligations.RotationsAndByteOperations := by
  unfold Obligations.RotationsAndByteOperations
  have hlt (b : Word) : b.toNat % 32 < 32 := Nat.mod_lt _ (by decide)
  refine ⟨?rol, ?ror, ?rori, ?rev8, ?orcB⟩
  case rol =>
    refine isRegRel_of_opReg (fun a b => rotateLeft a (amount b)) fun a b i hi => ?_
    rw [amount_eq_mod, ← Nat.add_mod_mod, getLsbD_rotateLeft a (hlt b) hi]
  case ror =>
    refine isRegRel_of_opReg (fun a b => rotateRight a (amount b)) fun a b i hi => ?_
    rw [amount_eq_mod, getLsbD_rotateRight a (hlt b) hi, Nat.add_mod_mod]
  case rori =>
    exact isShiftRel_of_opImm rotateRight fun a n hn i hi => getLsbD_rotateRight a hn hi
  case rev8 =>
    exact isUnaryRel_of_opImm byteReverse fun a i hi => getLsbD_byteReverse a hi
  case orcB =>
    exact isUnaryRel_of_opImm orcBytes fun a i hi => getLsbD_orcBytes a hi

/-- Settles O15: the three results are words of one product, from bit 0, 32 and 31 on. -/
theorem carrylessProducts : Obligations.CarrylessProducts := by
  unfold Obligations.CarrylessProducts
  refine ⟨?clmul, ?clmulh, ?clmulr⟩
  case clmul =>
    exact isRegRel_of_opReg (fun a b => (clProduct a b 32).extractLsb' 0 32) fun a b i hi =>
      getLsbD_extractLsb'_clProduct a b (by decide) hi
  case clmulh =>
    exact isRegRel_of_opReg (fun a b => (clProduct a b 32).extractLsb' 32 32) fun a b i hi =>
      getLsbD_extractLsb'_clProduct a b (by decide) hi
  case clmulr =>
    exact isRegRel_of_opReg (fun a b => (clProduct a b 32).extractLsb' 31 32) fun a b i hi =>
      getLsbD_extractLsb'_clProduct a b (by decide) hi

/-- Settles O16: a register form takes the bit's number modulo 32, an immediate form has it below 32. -/
theorem singleBits : Obligations.SingleBits := by
  unfold Obligations.SingleBits
  simp only [← amount_eq_mod]
  refine ⟨?bset, ?bseti, ?bclr, ?bclri, ?binv, ?binvi, ?bext, ?bexti⟩
  case bset =>
    exact isRegRel_of_opReg (fun a b => a ||| bitMask (amount b)) fun a b _ => getLsbD_or_bitMask a (amount b)
  case bseti =>
    exact isShiftRel_of_opImm (fun a n => a ||| bitMask n) fun a n _ _ => getLsbD_or_bitMask a n
  case bclr =>
    exact isRegRel_of_opReg (fun a b => a &&& ~~~bitMask (amount b)) fun a b _ => getLsbD_and_not_bitMask a (amount b)
  case bclri =>
    exact isShiftRel_of_opImm (fun a n => a &&& ~~~bitMask n) fun a n _ _ => getLsbD_and_not_bitMask a n
  case binv =>
    exact isRegRel_of_opReg (fun a b => a ^^^ bitMask (amount b)) fun a b _ => getLsbD_xor_bitMask a (amount b)
  case binvi =>
    exact isShiftRel_of_opImm (fun a n => a ^^^ bitMask n) fun a n _ _ => getLsbD_xor_bitMask a n
  case bext =>
    exact isRegOp_of_opReg (fun a b => a >>> amount b &&& 1) fun a b => ushiftRight_and_one_eq_ofNat a (amount b)
  case bexti =>
    exact isShiftOp_of_opImm (fun a n => a >>> n &&& 1) ushiftRight_and_one_eq_ofNat

end Sys2Proof.Machine
end

section
/-! PROOFS. Bit manipulation, Zbp permutations and Zbr (46_bitmanip_zbe_zbf_zbp_zbr.md): the elements of a word and what
`xpermUpTo` leaves in each, the shift register of the CRC instructions on naturals, and with these the statements. -/

namespace Sys2Proof.Machine

/-! ## The elements of a word -/

/-- Element `k` of a word cut into elements of `sz` bits, from the lowest up. -/
def element (sz : Nat) (w : Word) (k : Nat) : Nat := w.toNat / 2 ^ (sz * k) % 2 ^ sz

theorem element_zero (sz k : Nat) : element sz 0 k = 0 := by simp [element]

/-- Each element of a disjunction is that of its parts. -/
theorem element_or (sz : Nat) (v w : Word) (k : Nat) : element sz (v ||| w) k = element sz v k ||| element sz w k := by
  rw [element, BitVec.toNat_or, Nat.or_div_two_pow, Nat.or_mod_two_pow, element, element]

theorem testBit_element (sz : Nat) (w : Word) (k j : Nat) :
    (element sz w k).testBit j = (decide (j < sz) && w.getLsbD (sz * k + j)) := by
  rw [element, Nat.testBit_mod_two_pow, Nat.testBit_div_two_pow, BitVec.testBit_toNat, Nat.add_comm]

/-- A word of one element shifted to place `n` has it there and 0 elsewhere. -/
theorem element_shiftLeft {sz : Nat} {v : Word} (hv : v.toNat < 2 ^ sz) (n : Nat) {k : Nat} (hk : sz * k + sz ≤ 32) :
    element sz (v <<< (sz * n)) k = if k = n then v.toNat else 0 := by
  refine Nat.eq_of_testBit_eq fun j => ?_
  have hhigh (i : Nat) (hi : sz ≤ i) : v.getLsbD i = false :=
    Nat.testBit_lt_two_pow (hv.trans_le (Nat.pow_le_pow_right (by decide) hi))
  rw [testBit_element, BitVec.getLsbD_shiftLeft]
  by_cases hj : j < sz
  case neg =>
    rw [decide_eq_false hj, Bool.false_and]
    split
    · exact (hhigh j (Nat.le_of_not_lt hj)).symm
    · exact (Nat.zero_testBit j).symm
  case pos =>
    have hin : sz * k + j < 32 := by omega
    rw [decide_eq_true hj, decide_eq_true hin, Bool.true_and, Bool.true_and]
    obtain hlt | rfl | hgt := Nat.lt_trichotomy k n
    · have hbelow : sz * k + sz ≤ sz * n := Nat.mul_le_mul_left sz hlt
      rw [if_neg hlt.ne, Nat.zero_testBit, decide_eq_true (by omega), Bool.not_true, Bool.false_and]
    · rw [if_pos rfl, decide_eq_false (by omega), Nat.add_sub_cancel_left, Bool.not_false, Bool.true_and,
        BitVec.testBit_toNat]
    · have habove : sz * n + sz ≤ sz * k := Nat.mul_le_mul_left sz hgt
      rw [if_neg hgt.ne', Nat.zero_testBit, hhigh _ (by omega), Bool.and_false]

/-! ## Permutations -/

/-- The mask of one element. -/
theorem toNat_bitMask_sub_one {sz : Nat} (hsz : sz < 32) : (bitMask sz - 1).toNat = 2 ^ sz - 1 := by
  have hlt : 2 ^ sz < 2 ^ 32 := Nat.pow_lt_pow_right (by decide) hsz
  have hmask : (bitMask sz).toNat = 2 ^ sz := by
    rw [bitMask, ← BitVec.twoPow_eq, BitVec.toNat_twoPow, Nat.mod_eq_of_lt hlt]
  have hone : (1 : Word) ≤ bitMask sz := by
    rw [BitVec.le_def, hmask]
    exact Nat.one_le_two_pow
  rw [BitVec.toNat_sub_of_le hone, hmask]
  rfl

/-- Shifted down to bit 0 and masked, an element is the whole word. -/
theorem toNat_ushiftRight_and_mask {sz : Nat} (hsz : sz < 32) (w : Word) (k : Nat) :
    (w >>> (sz * k) &&& (bitMask sz - 1)).toNat = element sz w k := by
  rw [BitVec.toNat_and, toNat_bitMask_sub_one hsz, Nat.and_two_pow_sub_one_eq_mod, BitVec.toNat_ushiftRight,
    Nat.shiftRight_eq_div_pow, element]

/-- What `xperm` puts in place `k`: the element of `a` that element `k` of `b` names, or 0 past the last (R625). -/
def permutedElement (sz : Nat) (a b : Word) (k : Nat) : Nat :=
  if element sz b k < 32 / sz then element sz a (element sz b k) else 0

/-- The term that place `n` adds to the permuted word. -/
theorem element_xpermTerm {sz : Nat} (hsz : sz < 32) (hdvd : sz ∣ 32) (a b : Word) (n : Nat) {k : Nat}
    (hk : sz * k + sz ≤ 32) :
    element sz (if element sz b n * sz < 32 then
        (a >>> (element sz b n * sz) &&& (bitMask sz - 1)) <<< (sz * n) else 0) k =
      if k = n then permutedElement sz a b n else 0 := by
  have hne : sz ≠ 0 := (Nat.pos_of_dvd_of_pos hdvd (by decide)).ne'
  rw [permutedElement]
  simp only [Nat.lt_div_iff_mul_lt_of_dvd hne hdvd]
  split
  case isTrue =>
    have hvalue := toNat_ushiftRight_and_mask hsz a (element sz b n)
    rw [Nat.mul_comm, element_shiftLeft _ n hk, hvalue]
    rw [hvalue, element]
    exact Nat.mod_lt _ (Nat.two_pow_pos sz)
  case isFalse => rw [element_zero, ite_self]

/-- The lowest `n` places are permuted, the others are 0. -/
theorem element_xpermUpTo {sz : Nat} (hsz : sz < 32) (hdvd : sz ∣ 32) (a b : Word) (n : Nat) {k : Nat}
    (hk : sz * k + sz ≤ 32) :
    element sz (xpermUpTo a b sz n) k = if k < n then permutedElement sz a b k else 0 := by
  induction n with
  | zero => rw [xpermUpTo, element_zero, if_neg (Nat.not_lt_zero k)]
  | succ n ih =>
    rw [xpermUpTo, element_or, ih, toNat_ushiftRight_and_mask hsz, element_xpermTerm hsz hdvd a b n hk]
    obtain hlt | rfl | hgt := Nat.lt_trichotomy k n
    · rw [if_pos hlt, if_neg hlt.ne, if_pos (by omega), Nat.or_zero]
    · rw [if_neg (Nat.lt_irrefl k), if_pos rfl, if_pos (Nat.lt_succ_self k), Nat.zero_or]
    · rw [if_neg (by omega), if_neg hgt.ne', if_neg (by omega), Nat.or_zero]

/-- All places permuted (R615 to R617). -/
theorem element_xpermUpTo_all {sz : Nat} (hsz : sz < 32) (hdvd : sz ∣ 32) (a b : Word) (k : Nat) (hk : k < 32 / sz) :
    element sz (xpermUpTo a b sz (32 / sz)) k = permutedElement sz a b k := by
  have hfits : sz * (k + 1) ≤ 32 := Nat.mul_comm sz _ ▸ Nat.mul_le_of_le_div sz (k + 1) 32 hk
  rw [element_xpermUpTo hsz hdvd a b _ hfits, if_pos hk]

/-! ## Cyclic redundancy checks -/

/-- One step of the shift register on naturals (R625). -/
def crcShift (poly v : Nat) : Nat := if v % 2 = 1 then v / 2 ^^^ poly else v / 2

/-- One step of the model has the value of a step on naturals. -/
theorem toNat_crcStep (poly v : Word) :
    (if v.getLsbD 0 then v >>> 1 ^^^ poly else v >>> 1).toNat = crcShift poly.toNat v.toNat := by
  have hodd : v.getLsbD 0 = true ↔ v.toNat % 2 = 1 := Nat.mod_two_eq_one_iff_testBit_zero.symm
  simp only [hodd, apply_ite BitVec.toNat, BitVec.toNat_xor, BitVec.toNat_ushiftRight, Nat.shiftRight_eq_div_pow,
    pow_one, crcShift]

/-- `n` steps of the model are `n` steps on naturals. -/
theorem toNat_crcSteps (poly : Word) (n : Nat) (v : Word) :
    (crcSteps poly n v).toNat = (crcShift poly.toNat)^[n] v.toNat := by
  induction n generalizing v with
  | zero => rfl
  | succ n ih => rw [crcSteps, ih, toNat_crcStep, Function.iterate_succ_apply]

/-- The register after `n` steps (R618 to R623). -/
theorem crcSteps_eq_ofNat (poly : Word) (n : Nat) (v : Word) :
    crcSteps poly n v = BitVec.ofNat 32 ((crcShift poly.toNat)^[n] v.toNat) := by
  rw [← toNat_crcSteps, BitVec.ofNat_toNat, BitVec.setWidth_eq]

/-! ## The statements -/

/-- Settles O20: the three instructions are one permutation, on 8, 4 and 2 elements. -/
theorem permutations : Obligations.Permutations := by
  unfold Obligations.Permutations
  refine ⟨?xpermN, ?xpermB, ?xpermH⟩
  case xpermN =>
    exact isRegRel_of_opReg (fun a b => xpermUpTo a b 4 8) (element_xpermUpTo_all (sz := 4) (by decide) (by decide))
  case xpermB =>
    exact isRegRel_of_opReg (fun a b => xpermUpTo a b 8 4) (element_xpermUpTo_all (sz := 8) (by decide) (by decide))
  case xpermH =>
    exact isRegRel_of_opReg (fun a b => xpermUpTo a b 16 2) (element_xpermUpTo_all (sz := 16) (by decide) (by decide))

/-- Settles O21: the register of each instruction runs on naturals as it does on words, for either polynomial. -/
theorem cyclicRedundancyChecks : Obligations.CyclicRedundancyChecks := by
  unfold Obligations.CyclicRedundancyChecks
  refine ⟨?crc32B, ?crc32H, ?crc32W, ?crc32cB, ?crc32cH, ?crc32cW⟩
  case crc32B => exact isUnaryRel_of_opImm (crcSteps polyCrc32 8) (crcSteps_eq_ofNat polyCrc32 8)
  case crc32H => exact isUnaryRel_of_opImm (crcSteps polyCrc32 16) (crcSteps_eq_ofNat polyCrc32 16)
  case crc32W => exact isUnaryRel_of_opImm (crcSteps polyCrc32 32) (crcSteps_eq_ofNat polyCrc32 32)
  case crc32cB => exact isUnaryRel_of_opImm (crcSteps polyCrc32c 8) (crcSteps_eq_ofNat polyCrc32c 8)
  case crc32cH => exact isUnaryRel_of_opImm (crcSteps polyCrc32c 16) (crcSteps_eq_ofNat polyCrc32c 16)
  case crc32cW => exact isUnaryRel_of_opImm (crcSteps polyCrc32c 32) (crcSteps_eq_ofNat polyCrc32c 32)

end Sys2Proof.Machine
end

section
/-! PROOFS. The decoder reads back what the encoder writes (30_encoding.md R361 to R378): each format's immediate is put
together again from the fields that hold its bits. -/

namespace Sys2Proof

/-! ## The fields of an immediate, put together again -/

theorem wordI_fields_append (imm : BitVec 12) : (imm.extractLsb' 5 7 ++ imm.extractLsb' 0 5 : BitVec 12) = imm := by
  grind

theorem immB_wordB_fields (imm : BitVec 12) :
    immB (imm.extractLsb' 11 1 ++ imm.extractLsb' 4 6) (imm.extractLsb' 0 4 ++ imm.extractLsb' 10 1) = imm := by
  unfold immB
  grind

theorem immU_wordU_fields (imm : BitVec 20) :
    immU (imm.extractLsb' 13 7) (imm.extractLsb' 8 5) (imm.extractLsb' 3 5) (imm.extractLsb' 0 3) = imm := by
  unfold immU
  grind

theorem immJ_wordJ_fields (imm : BitVec 20) :
    immJ (imm.extractLsb' 19 1 ++ imm.extractLsb' 4 6) (imm.extractLsb' 0 4 ++ imm.extractLsb' 10 1)
      (imm.extractLsb' 14 5) (imm.extractLsb' 11 3) = imm := by
  unfold immJ
  grind

theorem parcelI_fields_append (imm : BitVec 6) : (imm.extractLsb' 5 1 ++ imm.extractLsb' 0 5 : BitVec 6) = imm := by
  grind

theorem immCJ_bit (b : BitVec 1) (c d : BitVec 5) (i : Nat) : (immCJ b c d).getLsbD i =
    if i < 3 then d.getLsbD (1 + i) else if i < 4 then c.getLsbD 4 else if i < 5 then d.getLsbD 0
    else if i < 6 then c.getLsbD 0 else if i < 7 then d.getLsbD 4 else if i < 9 then c.getLsbD (i - 5)
    else if i < 10 then c.getLsbD 1 else b.getLsbD (i - 10) := by
  unfold immCJ
  grind

theorem immCB_bit (b : BitVec 1) (c d : BitVec 5) (i : Nat) : (immCB b c d).getLsbD i =
    if i < 2 then d.getLsbD (1 + i) else if i < 4 then c.getLsbD (i + 1) else if i < 5 then d.getLsbD 0
    else if i < 7 then d.getLsbD (i - 2) else b.getLsbD (i - 7) := by
  unfold immCB
  grind

theorem immCJ_parcelJ_fields (imm : BitVec 11) :
    immCJ (imm.extractLsb' 10 1)
      (imm.extractLsb' 3 1 ++ imm.extractLsb' 7 2 ++ imm.extractLsb' 9 1 ++ imm.extractLsb' 5 1)
      (imm.extractLsb' 6 1 ++ imm.extractLsb' 0 3 ++ imm.extractLsb' 4 1) = imm := by
  apply BitVec.eq_of_getLsbD_eq
  intro i hi
  rw [immCJ_bit]
  grind

theorem immCB_parcelB_fields (imm : BitVec 8) (rs1 : BitVec 3) :
    immCB (imm.extractLsb' 7 1) (imm.extractLsb' 2 2 ++ rs1)
      (imm.extractLsb' 5 2 ++ imm.extractLsb' 0 2 ++ imm.extractLsb' 4 1) = imm := by
  apply BitVec.eq_of_getLsbD_eq
  intro i hi
  rw [immCB_bit]
  grind

theorem high2_of_append (x : BitVec 2) (y : BitVec 3) : (x ++ y : BitVec 5).extractLsb' 3 2 = x :=
  BitVec.extractLsb'_append_eq_left

theorem low3_of_append (x : BitVec 2) (y : BitVec 3) : (x ++ y : BitVec 5).extractLsb' 0 3 = y :=
  BitVec.extractLsb'_append_eq_right

/-- The offset of `c.lw` and `c.sw`, bits 6 to 2, from the fields of its parcel (R371), as `decodeQ0` reads it. -/
def immCL (b : BitVec 1) (c d : BitVec 5) : BitVec 5 :=
  d.extractLsb' 3 1 ++ b ++ c.extractLsb' 3 2 ++ d.extractLsb' 4 1

/-- The amount of `c.addi4spn`, bits 9 to 2 (R371), as `decodeQ0` reads it. -/
def immCIW (b : BitVec 1) (c d : BitVec 5) : BitVec 8 :=
  c.extractLsb' 0 4 ++ b ++ c.extractLsb' 4 1 ++ d.extractLsb' 3 1 ++ d.extractLsb' 4 1

/-- The amount of `c.addi16sp`, bits 9 to 4 (R371), as `decodeQ1` reads it. -/
def immCI16 (b : BitVec 1) (d : BitVec 5) : BitVec 6 :=
  b ++ d.extractLsb' 1 2 ++ d.extractLsb' 3 1 ++ d.extractLsb' 0 1 ++ d.extractLsb' 4 1

/-- The offset of `c.lwsp` (`f` its bits 6:2) and of `c.swsp` (`f` its bits 11:7), bits 7 to 2 (R371), as `decodeQ2`
reads it. -/
def immCSP (b : BitVec 1) (f : BitVec 5) : BitVec 6 := f.extractLsb' 0 2 ++ b ++ f.extractLsb' 2 3

theorem immCL_bit (b : BitVec 1) (c d : BitVec 5) (i : Nat) : (immCL b c d).getLsbD i =
    if i < 1 then d.getLsbD 4 else if i < 3 then c.getLsbD (i + 2) else if i < 4 then b.getLsbD (i - 3)
    else if i < 5 then d.getLsbD 3 else false := by
  unfold immCL
  grind

theorem immCIW_bit (b : BitVec 1) (c d : BitVec 5) (i : Nat) : (immCIW b c d).getLsbD i =
    if i < 1 then d.getLsbD 4 else if i < 2 then d.getLsbD 3 else if i < 3 then c.getLsbD 4
    else if i < 4 then b.getLsbD (i - 3) else if i < 8 then c.getLsbD (i - 4) else false := by
  unfold immCIW
  grind

theorem immCI16_bit (b : BitVec 1) (d : BitVec 5) (i : Nat) : (immCI16 b d).getLsbD i =
    if i < 1 then d.getLsbD 4 else if i < 2 then d.getLsbD 0 else if i < 3 then d.getLsbD 3
    else if i < 5 then d.getLsbD (i - 2) else b.getLsbD (i - 5) := by
  unfold immCI16
  grind

theorem immCSP_bit (b : BitVec 1) (f : BitVec 5) (i : Nat) : (immCSP b f).getLsbD i =
    if i < 3 then f.getLsbD (i + 2) else if i < 4 then b.getLsbD (i - 3) else if i < 6 then f.getLsbD (i - 4)
    else false := by
  unfold immCSP
  grind

theorem immCL_parcelL_fields (imm : BitVec 5) (rs1 r : BitVec 3) :
    immCL (imm.extractLsb' 3 1) (imm.extractLsb' 1 2 ++ rs1) (imm.extractLsb' 0 1 ++ imm.extractLsb' 4 1 ++ r) = imm := by
  apply BitVec.eq_of_getLsbD_eq
  intro i hi
  rw [immCL_bit]
  grind

theorem immCIW_fields (imm : BitVec 8) (rd : BitVec 3) :
    immCIW (imm.extractLsb' 3 1) (imm.extractLsb' 2 1 ++ imm.extractLsb' 4 4)
      (imm.extractLsb' 0 1 ++ imm.extractLsb' 1 1 ++ rd) = imm := by
  apply BitVec.eq_of_getLsbD_eq
  intro i hi
  rw [immCIW_bit]
  grind

theorem immCI16_fields (imm : BitVec 6) :
    immCI16 (imm.extractLsb' 5 1)
      (imm.extractLsb' 0 1 ++ imm.extractLsb' 2 1 ++ imm.extractLsb' 3 2 ++ imm.extractLsb' 1 1) = imm := by
  apply BitVec.eq_of_getLsbD_eq
  intro i hi
  rw [immCI16_bit]
  grind

theorem immCSP_fields (imm : BitVec 6) :
    immCSP (imm.extractLsb' 3 1) (imm.extractLsb' 0 3 ++ imm.extractLsb' 4 2) = imm := by
  apply BitVec.eq_of_getLsbD_eq
  intro i hi
  rw [immCSP_bit]
  grind

/-- The low field of three written side by side. -/
theorem low_of_append (a b : BitVec 1) (r : BitVec 3) : (a ++ b ++ r : BitVec 5).extractLsb' 0 3 = r :=
  BitVec.extractLsb'_append_eq_right

theorem bit5_of_append (f5 : BitVec 5) (aq rl : Bool) :
    (f5 ++ BitVec.ofBool aq ++ BitVec.ofBool rl : BitVec 7).extractLsb' 2 5 = f5 := by
  grind

theorem aq_of_append (f5 : BitVec 5) (aq rl : Bool) :
    (f5 ++ BitVec.ofBool aq ++ BitVec.ofBool rl : BitVec 7).extractLsb' 1 1 = BitVec.ofBool aq := by
  apply BitVec.eq_of_getLsbD_eq
  grind

theorem rl_of_append (f5 : BitVec 5) (aq rl : Bool) :
    (f5 ++ BitVec.ofBool aq ++ BitVec.ofBool rl : BitVec 7).extractLsb' 0 1 = BitVec.ofBool rl :=
  BitVec.extractLsb'_append_eq_right
theorem ofBool_beq_one (b : Bool) : (BitVec.ofBool b == 1#1) = b := by
  cases b <;> rfl

/-! ## One format at a time -/

section formats
variable {f7 : BitVec 7} {rs2 rs1 rd : BitVec 5} {f3 : BitVec 3} {op : BitVec 7} (rest : List Byte)

/-- A word is read back if the decoder answers its instruction for its six fields. -/
theorem decode_encode_word {i : Instr} (he : encode i = .word (word32 f7 rs2 rs1 f3 rd op))
    (hd : decodeFields f7 rs2 rs1 f3 rd op = some i) (hop : op.extractLsb' 0 2 = 0b11#2 := by decide) :
    decode ((encode i).bytes ++ rest) = .ok (i, rest) := by
  rw [he]
  exact decode_word _ _ _ (by rw [word32_low, hop]) (by rw [decode32_word32, hd])

/-- A parcel is read back if the decoder answers its instruction for its five fields. -/
theorem decode_encode_half {i : Instr} {f3 : BitVec 3} {b : BitVec 1} {c d : BitVec 5} {op : BitVec 2}
    (he : encode i = .half (parcel16 f3 b c d op)) (hd : decodeCFields f3 b c d op = some i)
    (hop : op ≠ 0b11#2 := by decide) : decode ((encode i).bytes ++ rest) = .ok (i, rest) := by
  rw [he]
  exact decode_half _ _ _ (by rwa [parcel16_op]) (by rw [decode16_parcel16, hd])

variable {c : BitVec 12 → Instr} (imm : BitVec 12)

theorem decode_encode_wordI (he : encode (c imm) = .word (wordI imm rs1 f3 rd op))
    (hd : ∀ f7 rs2, decodeFields f7 rs2 rs1 f3 rd op = some (c (f7 ++ rs2)))
    (hop : op.extractLsb' 0 2 = 0b11#2 := by decide) :
    decode ((encode (c imm)).bytes ++ rest) = .ok (c imm, rest) :=
  decode_encode_word rest he (by rw [hd, wordI_fields_append]) hop

theorem decode_encode_wordS (he : encode (c imm) = .word (wordS imm rs2 rs1 f3 op))
    (hd : ∀ f7 rd, decodeFields f7 rs2 rs1 f3 rd op = some (c (f7 ++ rd)))
    (hop : op.extractLsb' 0 2 = 0b11#2 := by decide) :
    decode ((encode (c imm)).bytes ++ rest) = .ok (c imm, rest) :=
  decode_encode_word rest he (by rw [hd, wordI_fields_append]) hop

theorem decode_encode_wordB (he : encode (c imm) = .word (wordB imm rs2 rs1 f3 op))
    (hd : ∀ f7 rd, decodeFields f7 rs2 rs1 f3 rd op = some (c (immB f7 rd)))
    (hop : op.extractLsb' 0 2 = 0b11#2 := by decide) :
    decode ((encode (c imm)).bytes ++ rest) = .ok (c imm, rest) :=
  decode_encode_word rest he (by rw [hd, immB_wordB_fields]) hop

theorem decode_encode_wordU {c : BitVec 20 → Instr} (imm : BitVec 20) (he : encode (c imm) = .word (wordU imm rd op))
    (hd : ∀ f7 rs2 rs1 f3, decodeFields f7 rs2 rs1 f3 rd op = some (c (immU f7 rs2 rs1 f3)))
    (hop : op.extractLsb' 0 2 = 0b11#2 := by decide) :
    decode ((encode (c imm)).bytes ++ rest) = .ok (c imm, rest) :=
  decode_encode_word rest he (by rw [hd, immU_wordU_fields]) hop

theorem decode_encode_wordJ {c : BitVec 20 → Instr} (imm : BitVec 20) (he : encode (c imm) = .word (wordJ imm rd op))
    (hd : ∀ f7 rs2 rs1 f3, decodeFields f7 rs2 rs1 f3 rd op = some (c (immJ f7 rs2 rs1 f3)))
    (hop : op.extractLsb' 0 2 = 0b11#2 := by decide) :
    decode ((encode (c imm)).bytes ++ rest) = .ok (c imm, rest) :=
  decode_encode_word rest he (by rw [hd, immJ_wordJ_fields]) hop

theorem decode_encode_parcelI {f3 : BitVec 3} {rd : BitVec 5} {op : BitVec 2} {c : BitVec 6 → Instr} (imm : BitVec 6)
    (he : encode (c imm) = .half (parcelI f3 imm rd op))
    (hd : decodeCFields f3 (imm.extractLsb' 5 1) rd (imm.extractLsb' 0 5) op =
      some (c (imm.extractLsb' 5 1 ++ imm.extractLsb' 0 5))) (hop : op ≠ 0b11#2 := by decide) :
    decode ((encode (c imm)).bytes ++ rest) = .ok (c imm, rest) :=
  decode_encode_half rest he (by rw [hd, parcelI_fields_append]) hop

end formats
variable (rest : List Byte)

variable (rest : List Byte)

/-- An atomic is read back if the decoder answers it for its operation and its two ordering bits. -/
theorem decode_encode_wordA {op : Bool → Bool → Instr} {f5 : BitVec 5} {rs2 rs1 rd : BitVec 5} (aq rl : Bool)
    (he : encode (op aq rl) = .word (wordA f5 aq rl rs2 rs1 rd))
    (hd : ∀ f7, f7.extractLsb' 2 5 = f5 → decodeFields f7 rs2 rs1 0b010 rd 0b0101111 =
      some (op (f7.extractLsb' 1 1 == 1#1) (f7.extractLsb' 0 1 == 1#1))) :
    decode ((encode (op aq rl)).bytes ++ rest) = .ok (op aq rl, rest) := by
  refine decode_encode_word rest he ?_
  rw [hd _ (bit5_of_append ..), aq_of_append, rl_of_append, ofBool_beq_one, ofBool_beq_one]

/-! ## The rows of the decoder that check a field, or read one apart -/

section rows
variable (f7 : BitVec 7) (rs2 rs1 rd : BitVec 5) (f3 : BitVec 3) (b : BitVec 1) (c d : BitVec 5)

theorem decodeFields_op : decodeFields f7 rs2 rs1 f3 rd 0b0110011 = decodeOp f7 rs2 rs1 f3 rd := rfl

theorem decodeFields_opImm : decodeFields f7 rs2 rs1 f3 rd 0b0010011 = decodeOpImm f7 rs2 rs1 f3 rd := rfl

theorem decodeFields_amo : decodeFields f7 rs2 rs1 f3 rd 0b0101111 = decodeAmo f7 rs2 rs1 f3 rd := rfl

theorem decodeC_addi4spn : decodeCFields 0b000 b c d 0b00 =
    if immCIW b c d = 0 then none else some (.cAddi4spn (d.extractLsb' 0 3) (immCIW b c d)) := rfl

theorem decodeC_lw : decodeCFields 0b010 b c d 0b00 =
    some (.cLw (d.extractLsb' 0 3) (c.extractLsb' 0 3) (immCL b c d)) := rfl

theorem decodeC_sw : decodeCFields 0b110 b c d 0b00 =
    some (.cSw (d.extractLsb' 0 3) (c.extractLsb' 0 3) (immCL b c d)) := rfl

theorem decodeC_jal : decodeCFields 0b001 b c d 0b01 = some (.cJal (immCJ b c d)) := rfl

theorem decodeC_addi16sp : decodeCFields 0b011 b 2 d 0b01 =
    if immCI16 b d = 0 then none else some (.cAddi16sp (immCI16 b d)) := rfl

theorem decodeC_lui (hc : c ≠ 2) : decodeCFields 0b011 b c d 0b01 =
    if b ++ d = 0 then none else some (.cLui c (b ++ d)) := if_neg hc

theorem decodeC_alu : decodeCFields 0b100 b c d 0b01 = decodeQ1Alu b c d := rfl

theorem decodeC_j : decodeCFields 0b101 b c d 0b01 = some (.cJ (immCJ b c d)) := rfl

theorem decodeC_beqz : decodeCFields 0b110 b c d 0b01 = some (.cBeqz (c.extractLsb' 0 3) (immCB b c d)) := rfl

theorem decodeC_bnez : decodeCFields 0b111 b c d 0b01 = some (.cBnez (c.extractLsb' 0 3) (immCB b c d)) := rfl

theorem decodeC_lwsp (hc : c ≠ 0) : decodeCFields 0b010 b c d 0b10 = some (.cLwsp c (immCSP b d)) := if_neg hc

theorem decodeC_swsp : decodeCFields 0b110 b c d 0b10 = some (.cSwsp d (immCSP b c)) := rfl

theorem decodeC_jr (hc : c ≠ 0) : decodeCFields 0b100 0 c 0 0b10 = some (.cJr c) := if_neg hc

theorem decodeC_mv (hd : d ≠ 0) : decodeCFields 0b100 0 c d 0b10 = some (.cMv c d) := if_neg hd

theorem decodeC_jalr (hc : c ≠ 0) : decodeCFields 0b100 1 c 0 0b10 = some (.cJalr c) := if_neg hc

theorem decodeC_add (hd : d ≠ 0) : decodeCFields 0b100 1 c d 0b10 = some (.cAdd c d) := if_neg hd

end rows

theorem decodeFields_amoTable {f5 : BitVec 5} {op : RegIdx → RegIdx → RegIdx → Bool → Bool → Instr}
    (hf : lookup f5 amoTable = some op) (hlr : f5 ≠ 0b00010) {rs2 rs1 rd : BitVec 5} (f7 : BitVec 7)
    (h7 : f7.extractLsb' 2 5 = f5) : decodeFields f7 rs2 rs1 0b010 rd 0b0101111 =
      some (op rd rs1 rs2 (f7.extractLsb' 1 1 == 1#1) (f7.extractLsb' 0 1 == 1#1)) := by
  simp only [decodeFields_amo, decodeAmo, h7, hf, if_neg hlr, if_pos, Option.map_some]

/-- Settles O2: by the instruction's format; the immediates are put together again. -/
theorem decodeAfterEncode : Obligations.DecodeAfterEncode := by
  unfold Obligations.DecodeAfterEncode
  intro i rest wf
  cases i
  case lui rd imm | auipc rd imm => exact decode_encode_wordU rest imm rfl fun _ _ _ _ => rfl
  case jal rd imm => exact decode_encode_wordJ rest imm rfl fun _ _ _ _ => rfl
  case beq rs1 rs2 imm | bne rs1 rs2 imm | blt rs1 rs2 imm | bge rs1 rs2 imm | bltu rs1 rs2 imm | bgeu rs1 rs2 imm =>
    exact decode_encode_wordB rest imm rfl fun _ _ => rfl
  case jalr rd rs1 imm | lb rd rs1 imm | lh rd rs1 imm | lw rd rs1 imm | lbu rd rs1 imm | lhu rd rs1 imm
      | addi rd rs1 imm | slti rd rs1 imm | sltiu rd rs1 imm | xori rd rs1 imm | ori rd rs1 imm | andi rd rs1 imm =>
    exact decode_encode_wordI rest imm rfl fun _ _ => rfl
  case fenceI imm rs1 rd => exact decode_encode_wordI (c := (.fenceI · rs1 rd)) rest imm rfl fun _ _ => rfl
  case csrrw rd csr rs1 => exact decode_encode_wordI (c := (.csrrw rd · rs1)) rest csr rfl fun _ _ => rfl
  case csrrs rd csr rs1 => exact decode_encode_wordI (c := (.csrrs rd · rs1)) rest csr rfl fun _ _ => rfl
  case csrrc rd csr rs1 => exact decode_encode_wordI (c := (.csrrc rd · rs1)) rest csr rfl fun _ _ => rfl
  case csrrwi rd csr uimm => exact decode_encode_wordI (c := (.csrrwi rd · uimm)) rest csr rfl fun _ _ => rfl
  case csrrsi rd csr uimm => exact decode_encode_wordI (c := (.csrrsi rd · uimm)) rest csr rfl fun _ _ => rfl
  case csrrci rd csr uimm => exact decode_encode_wordI (c := (.csrrci rd · uimm)) rest csr rfl fun _ _ => rfl
  case sb rs2 rs1 imm | sh rs2 rs1 imm | sw rs2 rs1 imm => exact decode_encode_wordS rest imm rfl fun _ _ => rfl
  case fence fm pred succ rs1 rd =>
    refine decode_encode_word rest rfl ?_
    change some (Instr.fence _ _ _ _ _) = _
    congr 2 <;> grind
  case add | sub | sll | slt | sltu | xor | srl | sra | or | and | mul | mulh | mulhsu | mulhu | div | divu | rem | remu
      | sh1add | sh2add | sh3add | min | minu | max | maxu | andn | orn | xnor | rol | ror | clmul | clmulh | clmulr
      | bset | bclr | binv | bext | bcompress | bdecompress | packh | bfp | packu | grev | gorc | shfl | unshfl
      | xpermN | xpermB | xpermH | zextH =>
    exact decode_encode_word rest rfl rfl
  case slli | srli | srai | rori | bseti | bclri | binvi | bexti | rev8 | orcB | clz | ctz | cpop | sextB | sextH
      | crc32B | crc32H | crc32W | crc32cB | crc32cH | crc32cW | ecall | ebreak | mret | wfi =>
    exact decode_encode_word rest rfl rfl
  case pack rd rs1 rs2 =>
    have hrs2 : rs2 ≠ 0 := of_decide_eq_true wf
    exact decode_encode_word rest rfl (by rw [decodeFields_op, decodeOp, if_neg fun h => hrs2 h.2.2]; rfl)
  case grevi rd rs1 shamt =>
    have hamount : shamt ≠ 24#5 := of_decide_eq_true wf
    refine decode_encode_word rest rfl ?_
    rw [decodeFields_opImm]
    simp [decodeOpImm, hamount, shiftTable, lookup]
  case gorci rd rs1 shamt =>
    have hamount : shamt ≠ 7#5 := of_decide_eq_true wf
    refine decode_encode_word rest rfl ?_
    rw [decodeFields_opImm]
    simp [decodeOpImm, hamount, shiftTable, lookup]
  case shfli rd rs1 shamt | unshfli rd rs1 shamt =>
    refine decode_encode_word rest rfl ?_
    have htop : (0#1 ++ shamt : BitVec 5).extractLsb' 4 1 = 0 := BitVec.extractLsb'_append_eq_left
    have hlow : (0#1 ++ shamt : BitVec 5).extractLsb' 0 4 = shamt := BitVec.extractLsb'_append_eq_right
    rw [decodeFields_opImm]
    simp [decodeOpImm, htop, hlow]
  case lrW rd rs1 aq rl =>
    refine decode_encode_wordA rest aq rl rfl fun f7 h7 => ?_
    rw [decodeFields_amo]
    simp [decodeAmo, h7]
  case scW rd rs1 rs2 aq rl | amoswapW rd rs1 rs2 aq rl | amoaddW rd rs1 rs2 aq rl | amoxorW rd rs1 rs2 aq rl
      | amoandW rd rs1 rs2 aq rl | amoorW rd rs1 rs2 aq rl | amominW rd rs1 rs2 aq rl | amomaxW rd rs1 rs2 aq rl
      | amominuW rd rs1 rs2 aq rl | amomaxuW rd rs1 rs2 aq rl =>
    exact decode_encode_wordA rest aq rl rfl (decodeFields_amoTable rfl (by decide))
  case cAddi4spn rd imm =>
    have himm : imm ≠ 0 := of_decide_eq_true wf
    exact decode_encode_half rest rfl (by rw [decodeC_addi4spn, immCIW_fields, if_neg himm, low_of_append])
  case cLw rd rs1 imm =>
    exact decode_encode_half rest rfl
      (by rw [decodeC_lw, immCL_parcelL_fields, low_of_append, BitVec.extractLsb'_append_eq_right])
  case cSw rs2 rs1 imm =>
    exact decode_encode_half rest rfl
      (by rw [decodeC_sw, immCL_parcelL_fields, low_of_append, BitVec.extractLsb'_append_eq_right])
  case cNop imm | cLi rd imm => exact decode_encode_parcelI rest imm rfl rfl
  case cAddi rd imm =>
    have hrd : rd ≠ 0 := of_decide_eq_true wf
    exact decode_encode_parcelI rest imm rfl (if_neg hrd)
  case cLui rd imm =>
    obtain ⟨hrd, himm⟩ : rd ≠ 2 ∧ imm ≠ 0 := by simpa [Instr.WF, Instr.wellFormed] using wf
    refine decode_encode_parcelI rest imm rfl ?_
    rw [decodeC_lui _ _ _ hrd, parcelI_fields_append, if_neg himm]
  case cAddi16sp imm =>
    have himm : imm ≠ 0 := of_decide_eq_true wf
    exact decode_encode_half rest rfl (by rw [decodeC_addi16sp, immCI16_fields, if_neg himm])
  case cJ imm => exact decode_encode_half rest rfl (by rw [decodeC_j, immCJ_parcelJ_fields])
  case cJal imm => exact decode_encode_half rest rfl (by rw [decodeC_jal, immCJ_parcelJ_fields])
  case cBeqz rs1 imm =>
    exact decode_encode_half rest rfl (by rw [decodeC_beqz, immCB_parcelB_fields, BitVec.extractLsb'_append_eq_right])
  case cBnez rs1 imm =>
    exact decode_encode_half rest rfl (by rw [decodeC_bnez, immCB_parcelB_fields, BitVec.extractLsb'_append_eq_right])
  case cSrli rd shamt | cSrai rd shamt =>
    refine decode_encode_half rest rfl ?_
    rw [decodeC_alu, decodeQ1Alu, BitVec.extractLsb'_append_eq_left, BitVec.extractLsb'_append_eq_right]
    rfl
  case cAndi rd imm =>
    refine decode_encode_half rest rfl ?_
    rw [decodeC_alu, decodeQ1Alu, BitVec.extractLsb'_append_eq_left, BitVec.extractLsb'_append_eq_right,
      parcelI_fields_append]
    rfl
  case cSub rd rs2 | cXor rd rs2 | cOr rd rs2 | cAnd rd rs2 =>
    refine decode_encode_half rest rfl ?_
    simp only [decodeC_alu, decodeQ1Alu, high2_of_append, low3_of_append]
    rfl
  case cSlli rd shamt | cEbreak => exact decode_encode_half rest rfl rfl
  case cLwsp rd imm =>
    have hrd : rd ≠ 0 := of_decide_eq_true wf
    exact decode_encode_half rest rfl (by rw [decodeC_lwsp _ _ _ hrd, immCSP_fields])
  case cSwsp rs2 imm => exact decode_encode_half rest rfl (by rw [decodeC_swsp, immCSP_fields])
  case cJr rs1 => exact decode_encode_half rest rfl (decodeC_jr _ (of_decide_eq_true wf))
  case cJalr rs1 => exact decode_encode_half rest rfl (decodeC_jalr _ (of_decide_eq_true wf))
  case cMv rd rs2 => exact decode_encode_half rest rfl (decodeC_mv _ _ (of_decide_eq_true wf))
  case cAdd rd rs2 => exact decode_encode_half rest rfl (decodeC_add _ _ (of_decide_eq_true wf))

end Sys2Proof
end

section
/-! PROOFS. Bytes that decode are what the encoder writes (30_encoding.md R361 to R378): the decoder loses no bit of the
fields it takes apart, and its tables hold each row of the encoder once. -/

namespace Sys2Proof

/-! ## The formats write back the fields that the decoder took apart -/

section fields
variable (f7 : BitVec 7) (rs2 rs1 rd : BitVec 5) (f3 : BitVec 3) (op : BitVec 7)

theorem wordI_append : wordI (f7 ++ rs2) rs1 f3 rd op = word32 f7 rs2 rs1 f3 rd op := by
  unfold wordI
  congr 1 <;> grind

theorem wordS_append : wordS (f7 ++ rd) rs2 rs1 f3 op = word32 f7 rs2 rs1 f3 rd op := by
  unfold wordS
  congr 1 <;> grind

theorem immB_bit (i : Nat) : (immB f7 rd).getLsbD i =
    if i < 4 then rd.getLsbD (1 + i) else if i < 10 then f7.getLsbD (i - 4) else if i < 11 then rd.getLsbD 0
    else f7.getLsbD (i - 5) := by
  unfold immB
  grind

theorem wordB_immB : wordB (immB f7 rd) rs2 rs1 f3 op = word32 f7 rs2 rs1 f3 rd op := by
  unfold wordB
  congr 1 <;> apply BitVec.eq_of_getLsbD_eq <;> grind [immB_bit]

theorem wordU_immU : wordU (immU f7 rs2 rs1 f3) rd op = word32 f7 rs2 rs1 f3 rd op := by
  unfold wordU immU
  congr 1 <;> grind

theorem immJ_bit (i : Nat) : (immJ f7 rs2 rs1 f3).getLsbD i =
    if i < 4 then rs2.getLsbD (1 + i) else if i < 10 then f7.getLsbD (i - 4) else if i < 11 then rs2.getLsbD 0
    else if i < 14 then f3.getLsbD (i - 11) else if i < 19 then rs1.getLsbD (i - 14) else f7.getLsbD (i - 13) := by
  unfold immJ
  grind

theorem wordJ_immJ : wordJ (immJ f7 rs2 rs1 f3) rd op = word32 f7 rs2 rs1 f3 rd op := by
  unfold wordJ
  congr 1 <;> apply BitVec.eq_of_getLsbD_eq <;> grind [immJ_bit]

theorem ofBool_beq (b : BitVec 1) : BitVec.ofBool (b == 1#1) = b := by
  revert b
  decide

theorem wordA_fields : wordA (f7.extractLsb' 2 5) (f7.extractLsb' 1 1 == 1#1) (f7.extractLsb' 0 1 == 1#1) rs2 rs1 rd =
    word32 f7 rs2 rs1 0b010 rd 0b0101111 := by
  rw [wordA, ofBool_beq, ofBool_beq]
  congr 1
  grind

variable (f3 : BitVec 3) (b : BitVec 1) (c d : BitVec 5) (op : BitVec 2)

theorem parcelI_append (r : BitVec 5) : parcelI f3 (b ++ d) r op = parcel16 f3 b r d op := by
  unfold parcelI
  congr 1 <;> grind

theorem parcelL_immCL :
    parcelL f3 (immCL b c d) (c.extractLsb' 0 3) (d.extractLsb' 0 3) = parcel16 f3 b c d 0b00 := by
  unfold parcelL
  congr 1 <;> apply BitVec.eq_of_getLsbD_eq <;> grind [immCL_bit]

theorem parcelJ_immCJ : parcelJ f3 (immCJ b c d) = parcel16 f3 b c d 0b01 := by
  unfold parcelJ
  congr 1 <;> apply BitVec.eq_of_getLsbD_eq <;> grind [immCJ_bit]

theorem parcelB_immCB : parcelB f3 (immCB b c d) (c.extractLsb' 0 3) = parcel16 f3 b c d 0b01 := by
  unfold parcelB
  congr 1 <;> apply BitVec.eq_of_getLsbD_eq <;> grind [immCB_bit]

theorem encode_cAddi4spn_fields :
    encode (.cAddi4spn (d.extractLsb' 0 3) (immCIW b c d)) = .half (parcel16 0b000 b c d 0b00) := by
  simp only [encode, Code.half.injEq]
  congr 1 <;> apply BitVec.eq_of_getLsbD_eq <;> grind [immCIW_bit]

theorem encode_cAddi16sp_fields : encode (.cAddi16sp (immCI16 b d)) = .half (parcel16 0b011 b 2 d 0b01) := by
  simp only [encode, Code.half.injEq]
  congr 1 <;> apply BitVec.eq_of_getLsbD_eq <;> grind [immCI16_bit]

theorem encode_cLwsp_fields (r : BitVec 5) : encode (.cLwsp r (immCSP b d)) = .half (parcel16 0b010 b r d 0b10) := by
  simp only [encode, Code.half.injEq]
  congr 1 <;> apply BitVec.eq_of_getLsbD_eq <;> grind [immCSP_bit]

theorem encode_cSwsp_fields (r : BitVec 5) : encode (.cSwsp r (immCSP b c)) = .half (parcel16 0b110 b c r 0b10) := by
  simp only [encode, Code.half.injEq]
  congr 1 <;> apply BitVec.eq_of_getLsbD_eq <;> grind [immCSP_bit]

theorem append_of_fields {c : BitVec 5} (x : BitVec 2) (h : c.extractLsb' 3 2 = x) : (x ++ c.extractLsb' 0 3 : BitVec 5) = c := by
  subst h
  grind

theorem append_of_top_zero (h : c.extractLsb' 4 1 = 0) : (0#1 ++ c.extractLsb' 0 4 : BitVec 5) = c := by
  rw [show 0#1 = c.extractLsb' 4 1 from h.symm]
  grind

end fields

/-! ## Words -/

/-- An instruction of the set whose encoding is `c`. -/
def Instr.EncodedBy (i : Instr) (c : Code) : Prop := i.WF ∧ encode i = c

/-- What a table's row gives is encoded as every row of that key is. -/
theorem encodedBy_of_lookup {κ α : Type} [DecidableEq κ] {w : Code} {k : κ} {t : List (κ × α)} {f : α → Instr}
    {i : Instr} (h : (lookup k t).map f = some i) (ht : ∀ e ∈ t, k = e.1 → (f e.2).EncodedBy w) : i.EncodedBy w := by
  induction t with
  | nil => simp [lookup] at h
  | cons e t ih =>
    rw [lookup] at h
    split_ifs at h with hk
    · obtain rfl : f e.2 = i := by simpa using h
      exact ht _ List.mem_cons_self hk
    · exact ih h fun e' he' => ht e' (List.mem_cons_of_mem _ he')

/-- Every row of OP is encoded as its key says, `pack` at the points that are its own (R366). -/
theorem opTable_encodedBy : ∀ e ∈ opTable, ∀ rd rs1 rs2, (e.1 = (0b0000100, 0b100) → rs2 ≠ 0) →
    (e.2 rd rs1 rs2).EncodedBy (.word (word32 e.1.1 rs2 rs1 e.1.2 rd 0b0110011)) := by
  simp only [opTable, List.cons_append, List.nil_append, List.forall_mem_cons, List.not_mem_nil, IsEmpty.forall_iff,
    implies_true, and_true]
  and_intros <;> intro _ _ _ h <;> exact ⟨by simp_all [Instr.WF, Instr.wellFormed], rfl⟩

/-- Every row of the shift table is encoded as its key says, `grevi` and `gorci` at the points that are their own. -/
theorem shiftTable_encodedBy : ∀ e ∈ shiftTable, ∀ rd rs1 shamt, (e.1 = (0b0110100, 0b101) → shamt ≠ 0b11000) →
    (e.1 = (0b0010100, 0b101) → shamt ≠ 0b00111) →
    (e.2 rd rs1 shamt).EncodedBy (.word (word32 e.1.1 shamt rs1 e.1.2 rd 0b0010011)) := by
  simp only [shiftTable, List.forall_mem_cons, List.not_mem_nil, IsEmpty.forall_iff, implies_true, and_true]
  and_intros <;> intro _ _ _ h24 h7 <;> exact ⟨by simp_all [Instr.WF, Instr.wellFormed], rfl⟩

theorem unaryTable_encodedBy : ∀ e ∈ unaryTable, ∀ rd rs1,
    (e.2 rd rs1).EncodedBy (.word (word32 0b0110000 e.1 rs1 0b001 rd 0b0010011)) := by
  simp only [unaryTable, List.forall_mem_cons, List.not_mem_nil, IsEmpty.forall_iff, implies_true, and_true]
  and_intros <;> exact fun _ _ => ⟨rfl, rfl⟩

theorem amoTable_encodedBy : ∀ e ∈ amoTable, ∀ rd rs1 rs2 aq rl,
    (e.2 rd rs1 rs2 aq rl).EncodedBy (.word (wordA e.1 aq rl rs2 rs1 rd)) := by
  simp only [amoTable, List.forall_mem_cons, List.not_mem_nil, IsEmpty.forall_iff, implies_true, and_true]
  and_intros <;> exact fun _ _ _ _ _ => ⟨rfl, rfl⟩

theorem branchTable_encodedBy : ∀ e ∈ branchTable, ∀ rs1 rs2 imm,
    (e.2 rs1 rs2 imm).EncodedBy (.word (wordB imm rs2 rs1 e.1 0b1100011)) := by
  simp only [branchTable, List.forall_mem_cons, List.not_mem_nil, IsEmpty.forall_iff, implies_true, and_true]
  and_intros <;> exact fun _ _ _ => ⟨rfl, rfl⟩

theorem loadTable_encodedBy : ∀ e ∈ loadTable, ∀ rd rs1 imm,
    (e.2 rd rs1 imm).EncodedBy (.word (wordI imm rs1 e.1 rd 0b0000011)) := by
  simp only [loadTable, List.forall_mem_cons, List.not_mem_nil, IsEmpty.forall_iff, implies_true, and_true]
  and_intros <;> exact fun _ _ _ => ⟨rfl, rfl⟩

theorem storeTable_encodedBy : ∀ e ∈ storeTable, ∀ rs2 rs1 imm,
    (e.2 rs2 rs1 imm).EncodedBy (.word (wordS imm rs2 rs1 e.1 0b0100011)) := by
  simp only [storeTable, List.forall_mem_cons, List.not_mem_nil, IsEmpty.forall_iff, implies_true, and_true]
  and_intros <;> exact fun _ _ _ => ⟨rfl, rfl⟩

theorem immTable_encodedBy : ∀ e ∈ immTable, ∀ rd rs1 imm,
    (e.2 rd rs1 imm).EncodedBy (.word (wordI imm rs1 e.1 rd 0b0010011)) := by
  simp only [immTable, List.forall_mem_cons, List.not_mem_nil, IsEmpty.forall_iff, implies_true, and_true]
  and_intros <;> exact fun _ _ _ => ⟨rfl, rfl⟩

theorem csrTable_encodedBy : ∀ e ∈ csrTable, ∀ rd csr rs1,
    (e.2 rd csr rs1).EncodedBy (.word (wordI csr rs1 e.1 rd 0b1110011)) := by
  simp only [csrTable, List.forall_mem_cons, List.not_mem_nil, IsEmpty.forall_iff, implies_true, and_true]
  and_intros <;> exact fun _ _ _ => ⟨rfl, rfl⟩

theorem csrImmTable_encodedBy : ∀ e ∈ csrImmTable, ∀ rd csr uimm,
    (e.2 rd csr uimm).EncodedBy (.word (wordI csr uimm e.1 rd 0b1110011)) := by
  simp only [csrImmTable, List.forall_mem_cons, List.not_mem_nil, IsEmpty.forall_iff, implies_true, and_true]
  and_intros <;> exact fun _ _ _ => ⟨rfl, rfl⟩

section words
variable {f7 : BitVec 7} {rs2 rs1 rd : BitVec 5} {f3 : BitVec 3} {i : Instr}

theorem encodedBy_of_decodeOp (h : decodeOp f7 rs2 rs1 f3 rd = some i) :
    i.EncodedBy (.word (word32 f7 rs2 rs1 f3 rd 0b0110011)) := by
  unfold decodeOp at h
  split_ifs at h with hz
  · obtain ⟨rfl, rfl, rfl⟩ := hz
    cases h
    exact ⟨rfl, rfl⟩
  · refine encodedBy_of_lookup h fun e he hk => ?_
    obtain ⟨k, c⟩ := e
    subst hk
    refine opTable_encodedBy _ he rd rs1 rs2 fun hp h0 => hz ?_
    exact ⟨congrArg Prod.fst hp, congrArg Prod.snd hp, h0⟩

theorem encodedBy_of_decodeOpImm (h : decodeOpImm f7 rs2 rs1 f3 rd = some i) :
    i.EncodedBy (.word (word32 f7 rs2 rs1 f3 rd 0b0010011)) := by
  unfold decodeOpImm at h
  split_ifs at h with hsh hun hz htop hsl hr8 hob
  · obtain ⟨rfl, rfl⟩ := hun
    exact encodedBy_of_lookup h fun e he hk => hk ▸ unaryTable_encodedBy e he rd rs1
  · cases h
    subst hz hsl
    refine ⟨rfl, ?_⟩
    change Code.word (word32 _ _ _ _ _ _) = _
    rw [append_of_top_zero _ htop]
  · cases h
    subst hz
    obtain rfl : f3 = 0b101 := hsh.resolve_left hsl
    refine ⟨rfl, ?_⟩
    change Code.word (word32 _ _ _ _ _ _) = _
    rw [append_of_top_zero _ htop]
  · obtain ⟨rfl, rfl, rfl⟩ := hr8
    cases h
    exact ⟨rfl, rfl⟩
  · obtain ⟨rfl, rfl, rfl⟩ := hob
    cases h
    exact ⟨rfl, rfl⟩
  · refine encodedBy_of_lookup h fun e he hk => ?_
    obtain ⟨k, c⟩ := e
    subst hk
    refine shiftTable_encodedBy _ he rd rs1 rs2 (fun hp h0 => hr8 ?_) fun hp h0 => hob ?_
    · exact ⟨congrArg Prod.fst hp, congrArg Prod.snd hp, h0⟩
    · exact ⟨congrArg Prod.fst hp, congrArg Prod.snd hp, h0⟩
  · refine encodedBy_of_lookup h fun e he hk => ?_
    rw [hk, ← wordI_append]
    exact immTable_encodedBy e he rd rs1 _

theorem encodedBy_of_decodeSystem (h : decodeSystem f7 rs2 rs1 f3 rd = some i) :
    i.EncodedBy (.word (word32 f7 rs2 rs1 f3 rd 0b1110011)) := by
  unfold decodeSystem at h
  split_ifs at h with h3 hr hcall hbreak hret hwfi
  · obtain ⟨rfl, rfl⟩ := hr
    obtain ⟨rfl, rfl⟩ := hcall
    cases h
    exact ⟨rfl, h3 ▸ rfl⟩
  · obtain ⟨rfl, rfl⟩ := hr
    obtain ⟨rfl, rfl⟩ := hbreak
    cases h
    exact ⟨rfl, h3 ▸ rfl⟩
  · obtain ⟨rfl, rfl⟩ := hr
    obtain ⟨rfl, rfl⟩ := hret
    cases h
    exact ⟨rfl, h3 ▸ rfl⟩
  · obtain ⟨rfl, rfl⟩ := hr
    obtain ⟨rfl, rfl⟩ := hwfi
    cases h
    exact ⟨rfl, h3 ▸ rfl⟩
  · rw [← wordI_append]
    cases hc : lookup f3 csrTable with
    | some c =>
      rw [hc] at h
      refine encodedBy_of_lookup (t := csrTable) (k := f3) (f := fun c => c rd (f7 ++ rs2) rs1) (by rwa [hc]) ?_
      exact fun e he hk => hk ▸ csrTable_encodedBy e he rd _ rs1
    | none =>
      rw [hc] at h
      exact encodedBy_of_lookup h fun e he hk => hk ▸ csrImmTable_encodedBy e he rd _ rs1

theorem encodedBy_of_decodeMiscMem (h : decodeMiscMem f7 rs2 rs1 f3 rd = some i) :
    i.EncodedBy (.word (word32 f7 rs2 rs1 f3 rd 0b0001111)) := by
  unfold decodeMiscMem at h
  split_ifs at h with h0 h1
  · cases h
    subst h0
    refine ⟨rfl, ?_⟩
    simp only [encode, Code.word.injEq]
    congr 1 <;> grind
  · cases h
    subst h1
    exact ⟨rfl, congrArg _ (wordI_append ..)⟩

theorem encodedBy_of_decodeAmo (h : decodeAmo f7 rs2 rs1 f3 rd = some i) :
    i.EncodedBy (.word (word32 f7 rs2 rs1 f3 rd 0b0101111)) := by
  unfold decodeAmo at h
  dsimp only at h
  split_ifs at h with h2 hlr h0
  · cases h
    subst h2 h0
    refine ⟨rfl, ?_⟩
    rw [← wordA_fields, hlr]
    rfl
  · subst h2
    rw [← wordA_fields]
    exact encodedBy_of_lookup h fun e he hk => hk ▸ amoTable_encodedBy e he rd rs1 rs2 _ _

/-- A word that the decoder takes is what the encoder writes for its instruction. -/
theorem encodedBy_of_decodeFields {op : BitVec 7} (h : decodeFields f7 rs2 rs1 f3 rd op = some i) :
    i.EncodedBy (.word (word32 f7 rs2 rs1 f3 rd op)) := by
  unfold decodeFields at h
  by_cases hop : op = 0b0110011
  · rw [if_pos hop] at h
    subst hop
    exact encodedBy_of_decodeOp h
  rw [if_neg hop] at h
  by_cases hop : op = 0b0010011
  · rw [if_pos hop] at h
    subst hop
    exact encodedBy_of_decodeOpImm h
  rw [if_neg hop] at h
  by_cases hop : op = 0b0000011
  · rw [if_pos hop] at h
    subst hop
    rw [← wordI_append]
    exact encodedBy_of_lookup h fun e he hk => hk ▸ loadTable_encodedBy e he rd rs1 _
  rw [if_neg hop] at h
  by_cases hop : op = 0b0100011
  · rw [if_pos hop] at h
    subst hop
    rw [← wordS_append]
    exact encodedBy_of_lookup h fun e he hk => hk ▸ storeTable_encodedBy e he rs2 rs1 _
  rw [if_neg hop] at h
  by_cases hop : op = 0b1100011
  · rw [if_pos hop] at h
    subst hop
    rw [← wordB_immB]
    exact encodedBy_of_lookup h fun e he hk => hk ▸ branchTable_encodedBy e he rs1 rs2 _
  rw [if_neg hop] at h
  by_cases hop : op = 0b0110111
  · rw [if_pos hop] at h
    subst hop
    cases h
    exact ⟨rfl, congrArg _ (wordU_immU ..)⟩
  rw [if_neg hop] at h
  by_cases hop : op = 0b0010111
  · rw [if_pos hop] at h
    subst hop
    cases h
    exact ⟨rfl, congrArg _ (wordU_immU ..)⟩
  rw [if_neg hop] at h
  by_cases hop : op = 0b1101111
  · rw [if_pos hop] at h
    subst hop
    cases h
    exact ⟨rfl, congrArg _ (wordJ_immJ ..)⟩
  rw [if_neg hop] at h
  by_cases hop : op = 0b1100111
  · rw [if_pos hop] at h
    subst hop
    obtain ⟨rfl, rfl⟩ : f3 = 0 ∧ Instr.jalr rd rs1 (f7 ++ rs2) = i := by simpa using h
    exact ⟨rfl, congrArg _ (wordI_append ..)⟩
  rw [if_neg hop] at h
  by_cases hop : op = 0b1110011
  · rw [if_pos hop] at h
    subst hop
    exact encodedBy_of_decodeSystem h
  rw [if_neg hop] at h
  by_cases hop : op = 0b0001111
  · rw [if_pos hop] at h
    subst hop
    exact encodedBy_of_decodeMiscMem h
  rw [if_neg hop] at h
  by_cases hop : op = 0b0101111
  · rw [if_pos hop] at h
    subst hop
    exact encodedBy_of_decodeAmo h
  rw [if_neg hop] at h
  cases h

end words

/-! ## Parcels -/

section parcels
variable {f3 : BitVec 3} {b : BitVec 1} {c d : BitVec 5} {i : Instr}

theorem encodedBy_of_decodeQ0 (h : decodeQ0 f3 b c d = some i) : i.EncodedBy (.half (parcel16 f3 b c d 0b00)) := by
  unfold decodeQ0 at h
  dsimp only at h
  split_ifs at h with h0 hnz hl hs
  · cases h
    subst h0
    exact ⟨decide_eq_true hnz, encode_cAddi4spn_fields b c d⟩
  · cases h
    subst hl
    exact ⟨rfl, congrArg _ (parcelL_immCL ..)⟩
  · cases h
    subst hs
    exact ⟨rfl, congrArg _ (parcelL_immCL ..)⟩

theorem eq_one_of_ne_zero {b : BitVec 1} (hb : b ≠ 0) : b = 1 := by
  revert b
  decide

theorem parcelA_fields (x : BitVec 2) (hc : c.extractLsb' 3 2 = 0b11) (hd : d.extractLsb' 3 2 = x) :
    parcelA x (c.extractLsb' 0 3) (d.extractLsb' 0 3) = parcel16 0b100 0 c d 0b01 := by
  unfold parcelA
  congr 1
  · exact append_of_fields _ hc
  · exact append_of_fields _ hd

theorem encodedBy_of_decodeQ1Alu (h : decodeQ1Alu b c d = some i) :
    i.EncodedBy (.half (parcel16 0b100 b c d 0b01)) := by
  have h4 : ∀ x : BitVec 2, x ≠ 0b00 → x ≠ 0b01 → x ≠ 0b10 → x = 0b11 := by decide
  unfold decodeQ1Alu at h
  dsimp only at h
  split_ifs at h with h0 hb h1 hb h2 hb d0 d1 d2
  · cases h
    subst hb
    exact ⟨rfl, congrArg (fun f => Code.half (parcel16 0b100 0 f d 0b01)) (append_of_fields _ h0)⟩
  · cases h
    subst hb
    exact ⟨rfl, congrArg (fun f => Code.half (parcel16 0b100 0 f d 0b01)) (append_of_fields _ h1)⟩
  · cases h
    refine ⟨rfl, ?_⟩
    simp only [encode, Code.half.injEq]
    rw [← parcelI_append 0b100 b d 0b01 c, parcelI]
    congr 1
    exact append_of_fields _ h2
  · cases h
    subst hb
    exact ⟨rfl, congrArg _ (parcelA_fields _ (h4 _ h0 h1 h2) d0)⟩
  · cases h
    subst hb
    exact ⟨rfl, congrArg _ (parcelA_fields _ (h4 _ h0 h1 h2) d1)⟩
  · cases h
    subst hb
    exact ⟨rfl, congrArg _ (parcelA_fields _ (h4 _ h0 h1 h2) d2)⟩
  · cases h
    subst hb
    exact ⟨rfl, congrArg _ (parcelA_fields _ (h4 _ h0 h1 h2) (h4 _ d0 d1 d2))⟩

theorem eq_seven_of_ne (h0 : f3 ≠ 0b000) (h1 : f3 ≠ 0b001) (h2 : f3 ≠ 0b010) (h3 : f3 ≠ 0b011) (h4 : f3 ≠ 0b100)
    (h5 : f3 ≠ 0b101) (h6 : f3 ≠ 0b110) : f3 = 0b111 := by
  bv_omega

theorem encodedBy_of_decodeQ1 (h : decodeQ1 f3 b c d = some i) : i.EncodedBy (.half (parcel16 f3 b c d 0b01)) := by
  unfold decodeQ1 at h
  dsimp only at h
  split_ifs at h with h0 hc h1 h2 h3 h2r hnz hnz h4 h5 h6
  · cases h
    subst h0 hc
    exact ⟨rfl, congrArg _ (parcelI_append ..)⟩
  · cases h
    subst h0
    exact ⟨decide_eq_true hc, congrArg _ (parcelI_append ..)⟩
  · cases h
    subst h1
    exact ⟨rfl, congrArg _ (parcelJ_immCJ ..)⟩
  · cases h
    subst h2
    exact ⟨rfl, congrArg _ (parcelI_append ..)⟩
  · cases h
    subst h3 h2r
    exact ⟨decide_eq_true hnz, encode_cAddi16sp_fields b d⟩
  · cases h
    subst h3
    exact ⟨(Bool.and_eq_true _ _).mpr ⟨decide_eq_true h2r, decide_eq_true hnz⟩, congrArg _ (parcelI_append ..)⟩
  · subst h4
    exact encodedBy_of_decodeQ1Alu h
  · cases h
    subst h5
    exact ⟨rfl, congrArg _ (parcelJ_immCJ ..)⟩
  · cases h
    subst h6
    exact ⟨rfl, congrArg _ (parcelB_immCB ..)⟩
  · cases h
    obtain rfl : f3 = 0b111 := eq_seven_of_ne h0 h1 h2 h3 h4 h5 h6
    exact ⟨rfl, congrArg _ (parcelB_immCB ..)⟩

theorem encodedBy_of_decodeQ2 (h : decodeQ2 f3 b c d = some i) : i.EncodedBy (.half (parcel16 f3 b c d 0b10)) := by
  unfold decodeQ2 at h
  split_ifs at h with h0 hb h2 hc h4 hb hd hc hd hc h6
  · cases h
    subst h0 hb
    exact ⟨rfl, rfl⟩
  · cases h
    subst h2
    exact ⟨decide_eq_true hc, encode_cLwsp_fields b d c⟩
  · cases h
    subst h4 hb hd
    exact ⟨decide_eq_true hc, rfl⟩
  · cases h
    subst h4 hb
    exact ⟨decide_eq_true hd, rfl⟩
  · cases h
    obtain rfl : b = 1 := eq_one_of_ne_zero hb
    subst h4 hd hc
    exact ⟨rfl, rfl⟩
  · cases h
    obtain rfl : b = 1 := eq_one_of_ne_zero hb
    subst h4 hd
    exact ⟨decide_eq_true hc, rfl⟩
  · cases h
    obtain rfl : b = 1 := eq_one_of_ne_zero hb
    subst h4
    exact ⟨decide_eq_true hd, rfl⟩
  · cases h
    subst h6
    exact ⟨rfl, encode_cSwsp_fields b c d⟩

/-- A parcel that the decoder takes is what the encoder writes for its instruction. -/
theorem encodedBy_of_decodeCFields {op : BitVec 2} (h : decodeCFields f3 b c d op = some i) :
    i.EncodedBy (.half (parcel16 f3 b c d op)) := by
  unfold decodeCFields at h
  split_ifs at h with hop hop hop <;> subst hop
  · exact encodedBy_of_decodeQ0 h
  · exact encodedBy_of_decodeQ1 h
  · exact encodedBy_of_decodeQ2 h

end parcels

theorem encodedBy_of_decode32 {w : BitVec 32} {i : Instr} (h : decode32 w = some i) : i.EncodedBy (.word w) := by
  have hw := encodedBy_of_decodeFields h
  rwa [show word32 (w.extractLsb' 25 7) (w.extractLsb' 20 5) (w.extractLsb' 15 5) (w.extractLsb' 12 3)
    (w.extractLsb' 7 5) (w.extractLsb' 0 7) = w by unfold word32; grind] at hw

theorem encodedBy_of_decode16 {p : BitVec 16} {i : Instr} (h : decode16 p = some i) : i.EncodedBy (.half p) := by
  have hp := encodedBy_of_decodeCFields h
  rwa [show parcel16 (p.extractLsb' 13 3) (p.extractLsb' 12 1) (p.extractLsb' 7 5) (p.extractLsb' 2 5)
    (p.extractLsb' 0 2) = p by unfold parcel16; grind] at hp

/-! ## Bytes -/

theorem bytes_half (b0 b1 : Byte) : (Code.half (parcelOf b0 b1)).bytes = [b0, b1] := by
  simp only [Code.bytes, parcelOf, List.cons.injEq, and_true]
  and_intros <;> grind

theorem bytes_word (b0 b1 b2 b3 : Byte) :
    (Code.word (parcelOf b2 b3 ++ parcelOf b0 b1)).bytes = [b0, b1, b2, b3] := by
  simp only [Code.bytes, parcelOf, List.cons.injEq, and_true]
  and_intros <;> grind

/-- Settles O3: the decoder's tables are the encoder's rows, and each format writes its fields back. -/
theorem encodeAfterDecode : Obligations.EncodeAfterDecode := by
  unfold Obligations.EncodeAfterDecode
  intro l rest i h
  obtain _ | ⟨b0, _ | ⟨b1, tail⟩⟩ := l
  · cases h
  · cases h
  by_cases hc : isCompressed (parcelOf b0 b1) = true
  · simp only [decode, if_pos hc] at h
    split at h
    · next hd =>
      cases h
      obtain ⟨wf, he⟩ := encodedBy_of_decode16 hd
      exact ⟨wf, by rw [he, bytes_half]; rfl⟩
    · cases h
  · obtain _ | ⟨b2, _ | ⟨b3, tail'⟩⟩ := tail
    · simp only [decode, if_neg hc] at h
      cases h
    · simp only [decode, if_neg hc] at h
      cases h
    · simp only [decode, if_neg hc] at h
      split at h
      · next hd =>
        cases h
        obtain ⟨wf, he⟩ := encodedBy_of_decode32 hd
        exact ⟨wf, by rw [he, bytes_word]; rfl⟩
      · cases h

end Sys2Proof
end

section
/-! PROOFS. No operation of the machine changes the build (92_eei_decisions.md section 2): a `cfg` rule per operation. -/

namespace Sys2Proof.Machine

/-! ## Instructions -/

@[simp] theorem State.fenceIOp_cfg (s : State) (h : HartId) : (s.fenceIOp h).cfg = s.cfg := State.fenceOp_cfg s h

@[simp] theorem State.jump_cfg (s : State) (n r a) : (s.jump n r a).cfg = s.cfg := rfl

@[simp] theorem State.branch_cfg (s : State) (n b o) : (s.branch n b o).cfg = s.cfg := by
  unfold State.branch
  split <;> rfl

@[simp] theorem State.busRead_cfg (s : State) (h a n e) : (s.busRead h a n e).2.cfg = s.cfg := by
  unfold State.busRead
  split <;> rfl

@[simp] theorem State.busLoad_cfg (s : State) (h a n) : (s.busLoad h a n).2.cfg = s.cfg := by
  unfold State.busLoad
  split
  · simp
  dsimp only
  split
  · simp
  split
  · rfl
  · simp

@[simp] theorem State.readChecked_cfg (s : State) (a n) : (s.readChecked a n).2.cfg = s.cfg := by
  unfold State.readChecked
  split
  · rfl
  split
  · rfl
  · simp

@[simp] theorem State.writeChecked_cfg (s : State) (a v n) : (s.writeChecked a v n).cfg = s.cfg := by
  unfold State.writeChecked
  split
  · exact State.dccmStore_cfg ..
  split
  · exact State.picWrite_cfg ..
  · exact State.busStore_cfg ..

@[simp] theorem State.loadInstr_cfg (s : State) (len rd b off n ext) : (s.loadInstr len rd b off n ext).cfg = s.cfg := by
  unfold State.loadInstr
  dsimp only
  split <;> simp

@[simp] theorem State.storeInstr_cfg (s : State) (len b off v n) : (s.storeInstr len b off v n).cfg = s.cfg := by
  unfold State.storeInstr
  dsimp only
  split <;> simp

@[simp] theorem State.implicitFence_cfg (s : State) : s.implicitFence.cfg = s.cfg := State.fenceOp_cfg s _

@[simp] theorem State.amoInstr_cfg (s : State) (b rd r1 r2 f) : (s.amoInstr b rd r1 r2 f).cfg = s.cfg := by
  unfold State.amoInstr
  dsimp only
  split
  · split <;> simp
  · rfl

@[simp] theorem State.lrInstr_cfg (s : State) (b rd r1) : (s.lrInstr b rd r1).cfg = s.cfg := by
  unfold State.lrInstr
  dsimp only
  split
  · split <;> simp
  · rfl

@[simp] theorem State.scInstr_cfg (s : State) (b rd r1 r2) : (s.scInstr b rd r1 r2).cfg = s.cfg := by
  unfold State.scInstr
  dsimp only
  split
  · split
    · simp
    · simp only [State.writeBack_cfg, State.mapHart_cfg]
      split <;> simp
  · rfl

@[simp] theorem State.breakpoint_cfg (s : State) : s.breakpoint.cfg = s.cfg := by
  unfold State.breakpoint
  split <;> simp

@[simp] theorem State.enterSleep_cfg (s : State) (h) : (s.enterSleep h).cfg = s.cfg := by
  unfold State.enterSleep
  simp

@[simp] theorem State.writeMpmc_cfg (s : State) (h w d) : (s.writeMpmc h w d).cfg = s.cfg := by
  unfold State.writeMpmc
  dsimp only
  split <;> simp

@[simp] theorem State.writeDmst_cfg (s : State) (h w) : (s.writeDmst h w).cfg = s.cfg := by
  unfold State.writeDmst
  split
  · simp
  split <;> simp

@[simp] theorem State.startHart1_cfg (s : State) : s.startHart1.cfg = s.cfg := by
  unfold State.startHart1
  split <;> rfl

@[simp] theorem State.diagRead_cfg (s : State) (h) : (s.diagRead h).cfg = s.cfg := by
  unfold State.diagRead
  dsimp only
  split
  · rfl
  split <;> rfl

@[simp] theorem State.diagWrite_cfg (s : State) (h) : (s.diagWrite h).cfg = s.cfg := by
  unfold State.diagWrite
  dsimp only
  split
  · rfl
  split <;> rfl

@[simp] theorem State.csrWrite_cfg (s : State) (h r w d) : (s.csrWrite h r w d).cfg = s.cfg := by
  cases r
  case dicago | mhartstart =>
    unfold State.csrWrite
    dsimp only
    split <;> simp
  case dmst => exact State.writeDmst_cfg ..
  case mpmc => exact State.writeMpmc_cfg ..
  all_goals rfl

@[simp] theorem State.csrInstr_cfg (s : State) (b rd a w f) : (s.csrInstr b rd a w f).cfg = s.cfg := by
  unfold State.csrInstr
  dsimp only
  split
  · rfl
  · simp only [State.setReg_cfg]
    split <;> simp

/-! ## Around instructions -/

@[simp] theorem State.drainFree_cfg (s : State) (h) : (s.drainFree h).cfg = s.cfg := by
  unfold State.drainFree
  split <;> simp

@[simp] theorem State.settleAs_cfg (s : State) (b) : (s.settleAs b).cfg = s.cfg := by
  unfold State.settleAs State.handshakes State.passTime
  simp

@[simp] theorem State.settle_cfg (s : State) : s.settle.cfg = s.cfg := State.settleAs_cfg s false

@[simp] theorem State.begun_cfg (s : State) : s.begun.cfg = s.cfg := rfl

@[simp] theorem State.complete_cfg (s : State) : s.complete.cfg = s.cfg := by
  unfold State.complete
  split <;> simp

@[simp] theorem State.haltNow_cfg (s : State) (c o) : (s.haltNow c o).cfg = s.cfg := by
  unfold State.haltNow
  simp

@[simp] theorem State.performStore_cfg (s : State) (h p) : (s.performStore h p).cfg = s.cfg := by
  unfold State.performStore
  split <;> rfl

@[simp] theorem State.terminate_cfg (s : State) (h n l) : (s.terminate h n l).cfg = s.cfg := by
  induction l generalizing s n with
  | nil => rfl
  | cons p l ih =>
    rw [State.terminate, ih]
    split <;> simp

@[simp] theorem State.abandonLoad_cfg (s : State) : s.abandonLoad.cfg = s.cfg := by
  unfold State.abandonLoad
  dsimp only
  split
  · rfl
  split <;> rfl

@[simp] theorem State.haltForced_cfg (s : State) (c o) : (s.haltForced c o).cfg = s.cfg := by
  unfold State.haltForced
  dsimp only
  simp only [State.haltNow_cfg, State.mapHart_cfg]
  split <;> simp

@[simp] theorem State.tryHalt_cfg (s : State) (c o) : (s.tryHalt c o).cfg = s.cfg := by
  unfold State.tryHalt
  split
  · split <;> simp
  · simp

@[simp] theorem State.endStep_cfg (s : State) : s.endStep.cfg = s.cfg := State.tryHalt_cfg ..

@[simp] theorem State.waitingBreakpoint_cfg (s : State) : s.waitingBreakpoint.cfg = s.cfg := by
  unfold State.waitingBreakpoint
  rw [State.tryHalt_cfg]
  split <;> rfl

@[simp] theorem State.readPart_cfg (s : State) (t a k) : (s.readPart t a k).2.cfg = s.cfg := by
  unfold State.readPart
  split <;> rfl

@[simp] theorem State.beginSplit_cfg (s : State) (i m k) : (s.beginSplit i m k).cfg = s.cfg := by
  unfold State.beginSplit
  dsimp only
  split
  · rfl
  · simp only [State.mapHart_cfg, State.readPart_cfg]
    split <;> simp

@[simp] theorem State.finishSplit_cfg (s : State) (m l) : (s.finishSplit m l).cfg = s.cfg := by
  unfold State.finishSplit
  dsimp only
  split <;> simp

@[simp] theorem State.evalTriggers_cfg (s : State) (a) : (s.evalTriggers a).2.cfg = s.cfg := by
  unfold State.evalTriggers
  dsimp only
  split <;> rfl

@[simp] theorem State.cacheFetch_cfg (s : State) (a) : (s.cacheFetch a).2.cfg = s.cfg := by
  unfold State.cacheFetch
  dsimp only
  split
  · rfl
  split <;> rfl

@[simp] theorem State.parcelAt_cfg (s : State) (p) : (s.parcelAt p).2.cfg = s.cfg := by
  unfold State.parcelAt
  split <;> simp

@[simp] theorem State.fetch_cfg (s : State) : s.fetch.2.cfg = s.cfg := by
  unfold State.fetch
  dsimp only
  split
  · rfl
  split
  · simp
  split <;> simp

@[simp] theorem State.takeNmi_cfg (s : State) (h c) : (s.takeNmi h c).cfg = s.cfg := rfl

@[simp] theorem State.takePendingNmi_cfg (s : State) (h) : (s.takePendingNmi h).cfg = s.cfg := by
  unfold State.takePendingNmi
  dsimp only
  split <;> rfl

@[simp] theorem State.redirect_cfg (s : State) (h) : (s.redirect h).cfg = s.cfg := by
  unfold State.redirect
  dsimp only
  split
  · rfl
  split
  · rfl
  split <;> rfl

@[simp] theorem State.takeInterrupt_cfg (s : State) (h c) : (s.takeInterrupt h c).cfg = s.cfg := by
  unfold State.takeInterrupt
  split
  · exact State.redirect_cfg s h
  · rfl

/-! ## The Debug Module -/

@[simp] theorem State.tryResume_cfg (s : State) (h) : (s.tryResume h).cfg = s.cfg := by
  unfold State.tryResume
  dsimp only
  split <;> rfl

@[simp] theorem State.requestResume_cfg (s : State) (h) : (s.requestResume h).cfg = s.cfg := by
  unfold State.requestResume
  dsimp only
  split <;> simp

@[simp] theorem State.controlHart_cfg (s : State) (h w) : (s.controlHart h w).cfg = s.cfg := by
  unfold State.controlHart
  dsimp only
  split
  · split
    · rw [State.requestResume_cfg]
      split <;> rfl
    · split <;> rfl
  · rfl

@[simp] theorem State.writeDmcontrol_cfg (s : State) (w) : (s.writeDmcontrol w).cfg = s.cfg := by
  unfold State.writeDmcontrol
  split
  · rfl
  split
  · rfl
  · simp

theorem State.accessRegister_cfg {s t : State} {h c} (e : s.accessRegister h c = .ok t) : t.cfg = s.cfg := by
  simp only [State.accessRegister] at e
  split at e
  · cases e; rfl
  split at e
  · cases e; rfl
  split at e
  · cases e; rfl
  split at e
  · split at e
    · cases e; rfl
    split at e
    · cases e
    split at e
    · cases e; exact State.csrWrite_cfg ..
    · cases e
      simp only [State.registerDone]
      split <;> simp
  split at e
  · split at e <;> cases e <;> rfl
  · cases e; rfl

@[simp] theorem State.debugWrite_cfg (s : State) (a v n) : (s.debugWrite a v n).cfg = s.cfg := by
  unfold State.debugWrite
  split
  · exact State.picWrite_cfg ..
  split
  · simp only [State.mapHartAt_cfg, State.ccmWrite_cfg]
  · rfl

@[simp] theorem State.commandError_cfg (s : State) (e) : (s.commandError e).cfg = s.cfg := rfl

@[simp] theorem State.memoryDone_cfg (s : State) (c d n) : (s.memoryDone c d n).cfg = s.cfg := rfl

@[simp] theorem State.accessMemory_cfg (s : State) (h c) : (s.accessMemory h c).cfg = s.cfg := by
  unfold State.accessMemory
  dsimp only
  split
  · rw [State.commandError_cfg]
  split
  · rw [State.commandError_cfg]
  split
  · rw [State.memoryDone_cfg, State.debugWrite_cfg]
  · rw [State.memoryDone_cfg]

theorem State.execCommand_cfg {s t : State} {h} (e : s.execCommand h = .ok t) : t.cfg = s.cfg := by
  simp only [State.execCommand] at e
  split at e
  · cases e; rfl
  split at e
  · cases e; rfl
  split at e
  · exact State.accessRegister_cfg e
  · cases e
    simp

theorem State.runCommand_cfg {s t : State} (e : s.runCommand = .ok t) : t.cfg = s.cfg := by
  simp only [State.runCommand] at e
  generalize (if s.cfg.dualThread = true then s.dm.hartsel else HartId.t0) = k at e
  split at e
  · cases e; rfl
  split at e
  · cases e; rfl
  · exact State.execCommand_cfg e

theorem State.autoRun_cfg {s t : State} {n} (e : s.autoRun n = .ok t) : t.cfg = s.cfg := by
  unfold State.autoRun at e
  split at e
  · exact State.runCommand_cfg e
  · cases e; rfl

@[simp] theorem State.systemBusDone_cfg (s : State) (op) : (s.systemBusDone op).cfg = s.cfg := by
  unfold State.systemBusDone
  split
  · rfl
  · cases op <;> rfl

@[simp] theorem State.systemBus_cfg (s : State) (op) : (s.systemBus op).cfg = s.cfg := by
  unfold State.systemBus
  split
  · rfl
  split
  · rfl
  · simp

theorem State.finishDebug_cfg {s t : State} (e : s.finishDebug = .ok t) : t.cfg = s.cfg := by
  simp only [State.finishDebug] at e
  cases hb : s.dm.sbBusy with
  | some op =>
    rw [hb] at e
    dsimp only at e
    split at e
    · exact (State.execCommand_cfg e).trans (State.systemBusDone_cfg _ op)
    · cases e
      exact State.systemBusDone_cfg _ op
  | none =>
    rw [hb] at e
    dsimp only at e
    split at e
    · have hu := State.execCommand_cfg e
      exact hu
    · cases e; rfl

theorem State.dmiWrite_cfg {s t : State} {a w} (e : s.dmiWrite a w = .ok t) : t.cfg = s.cfg := by
  unfold State.dmiWrite at e
  dsimp only at e
  split at e
  · cases e; simp
  split at e
  · cases e; rfl
  split at e
  · split at e
    · cases e; rfl
    · have hu := State.autoRun_cfg e
      exact hu
  · split at e
    · cases e; rfl
    · have hu := State.autoRun_cfg e
      exact hu
  · cases e; rfl
  · cases e
    split <;> rfl
  · split at e
    · cases e; rfl
    split at e
    · cases e; rfl
    · have hu := State.runCommand_cfg e
      exact hu
  · cases e
    split <;> rfl
  · split at e <;> cases e
    rfl
  · cases e
    split
    · rfl
    split
    · exact State.systemBus_cfg ..
    · rfl
  · cases e
    split
    · rfl
    · exact State.systemBus_cfg ..
  · cases e
    split <;> rfl
  · cases e; rfl

theorem State.dmiRead_cfg {s : State} {a p} (e : s.dmiRead a = .ok p) : p.2.cfg = s.cfg := by
  have auto : ∀ (n : Nat) (v : Word), (s.autoRun n).map (fun t => (v, t)) = .ok p → p.2.cfg = s.cfg := by
    intro n v e
    cases h : s.autoRun n with
    | error _ => rw [h] at e; cases e
    | ok u =>
      rw [h] at e
      cases e
      exact State.autoRun_cfg h
  unfold State.dmiRead at e
  dsimp only at e
  split at e
  case h_1 | h_2 =>
    split at e
    · cases e; rfl
    · exact auto _ _ e
  case h_12 =>
    cases e
    split
    · rfl
    · dsimp only
      split
      · exact State.systemBus_cfg ..
      · rfl
  case h_13 =>
    cases e
    split <;> rfl
  all_goals
    cases e
    rfl

theorem State.jtagScan_cfg {s t : State} {r d} (e : s.jtagScan r d = .ok t) : t.cfg = s.cfg := by
  simp only [State.jtagScan] at e
  split at e
  · split at e
    · generalize hq : State.dmiRead _ _ = q at e
      cases q with
      | error _ => cases e
      | ok p =>
        cases e
        have hu := State.dmiRead_cfg hq
        exact hu
    split at e
    · have hu := State.dmiWrite_cfg e
      exact hu
    · cases e; rfl
  · cases e; rfl

/-! ## The environment -/

@[simp] theorem State.countDma_cfg (s : State) (e) : (s.countDma e).cfg = s.cfg := by
  unfold State.countDma
  split <;> rfl

@[simp] theorem State.dmaWord_cfg (s : State) (a v) : (s.dmaWord a v).cfg = s.cfg := by
  unfold State.dmaWord
  simp only [State.mapHartAt_cfg, State.ccmWrite_cfg]

@[simp] theorem State.followReset_cfg (s : State) (b) : (s.followReset b).cfg = s.cfg := by
  unfold State.followReset
  split
  · split <;> rfl
  · split <;> rfl

theorem State.pmuHalt_cfg {s t : State} {h b} (e : s.pmuHalt h b = .ok t) : t.cfg = s.cfg := by
  simp only [State.pmuHalt] at e
  split_ifs at e <;> cases e <;> rfl

theorem State.pmuRun_cfg {s t : State} {h b} (e : s.pmuRun h b = .ok t) : t.cfg = s.cfg := by
  simp only [State.pmuRun] at e
  split_ifs at e <;> cases e <;> rfl

theorem State.mpcHalt_cfg {s t : State} {h b} (e : s.mpcHalt h b = .ok t) : t.cfg = s.cfg := by
  simp only [State.mpcHalt] at e
  split_ifs at e <;> cases e <;> rfl

theorem State.mpcRun_cfg {s t : State} {h b} (e : s.mpcRun h b = .ok t) : t.cfg = s.cfg := by
  simp only [State.mpcRun] at e
  split_ifs at e <;> cases e
  · rfl
  · exact State.tryResume_cfg ..
  · rfl

theorem State.dmaWrite_cfg {s t : State} {a n b d} (e : s.dmaWrite a n b d = .ok t) : t.cfg = s.cfg := by
  simp only [State.dmaWrite] at e
  split_ifs at e <;> cases e <;> simp only [State.dmaWord_cfg, State.countDma_cfg]

theorem State.paceDebug_cfg {s t : State} {b} (e : s.paceDebug b = .ok t) : t.cfg = s.cfg := by
  simp only [State.paceDebug] at e
  split at e
  · cases e; rfl
  · have hu := State.finishDebug_cfg e
    exact hu

theorem State.move_cfg {s t : State} {e} (h : s.move e = .ok t) : t.cfg = s.cfg := by
  cases e
  case cpuHaltReq => exact State.pmuHalt_cfg h
  case cpuRunReq => exact State.pmuRun_cfg h
  case mpcHaltReq => exact State.mpcHalt_cfg h
  case mpcRunReq => exact State.mpcRun_cfg h
  case jtagScan => exact State.jtagScan_cfg h
  case dmaWrite => exact State.dmaWrite_cfg h
  case debugPace => exact State.paceDebug_cfg h
  case dmaRead =>
    cases h
    exact State.countDma_cfg ..
  case socWrite =>
    cases h
    unfold State.socWrite
    split <;> rfl
  case icacheError =>
    cases h
    unfold State.icacheErrorAt
    split <;> rfl
  case iccmError =>
    cases h
    unfold State.iccmErrorNow
    split <;> rfl
  case dccmError =>
    cases h
    unfold State.dccmErrorNow
    split <;> rfl
  case doubleBitError =>
    cases h
    unfold State.spoilWord
    dsimp only
    split <;> rfl
  case repair =>
    cases h
    unfold State.repairWord
    dsimp only
    split <;> rfl
  case schedule =>
    cases h
    split <;> rfl
  all_goals
    cases h
    rfl

theorem State.applyEvent_cfg {s t : State} {e} (h : s.applyEvent e = .ok t) : t.cfg = s.cfg := by
  unfold State.applyEvent at h
  cases hm : s.move e with
  | error _ => rw [hm] at h; cases h
  | ok u =>
    rw [hm] at h
    cases h
    exact (State.followReset_cfg u _).trans (State.move_cfg hm)

end Sys2Proof.Machine
end

section
/-! PROOFS. The shapes of instruction: what `exec` can do, said once. Facts about every instruction go through these seventeen
shapes instead of the arms of `exec`. -/

namespace Sys2Proof.Machine

/-- The six CSR instructions (44_zicsr_zifencei_system.md R530). -/
def isCsrInstr : Instr → Bool
  | .csrrw _ _ _ | .csrrs _ _ _ | .csrrc _ _ _ | .csrrwi _ _ _ | .csrrsi _ _ _ | .csrrci _ _ _ => true
  | _ => false

/-- What an instruction does to the state `s`; `csr` tells whether it is a CSR instruction. -/
inductive ExecShape (s : State) (csr : Bool) : State → Prop where
  | writeBack (len : Nat) (evs : List Nat) (rd : RegIdx) (v : Word) (hlen : len % 2 = 0) :
      ExecShape s csr (s.writeBack len evs rd v)
  | retire (len : Nat) (evs : List Nat) (hlen : len % 2 = 0) : ExecShape s csr (s.retire len evs)
  | goTo (target : Word) (len : Nat) (evs : List Nat) (even : s.pc.getLsbD 0 = false → target.getLsbD 0 = false) :
      ExecShape s csr (s.retireTo target len evs)
  | jump (len : Nat) (rd : RegIdx) (target : Word) (even : s.pc.getLsbD 0 = false → target.getLsbD 0 = false) :
      ExecShape s csr (s.jump len rd target)
  | branch (len : Nat) (taken : Bool) (off : Word) (hlen : len % 2 = 0) (even : off.getLsbD 0 = false) :
      ExecShape s csr (s.branch len taken off)
  | load (len : Nat) (rd : RegIdx) (b off : Word) (n : Nat) (ext : Word → Word) (hlen : len % 2 = 0) :
      ExecShape s csr (s.loadInstr len rd b off n ext)
  | store (len : Nat) (b off v : Word) (n : Nat) (hlen : len % 2 = 0) : ExecShape s csr (s.storeInstr len b off v n)
  | fence : ExecShape s csr ((s.fenceOp s.cur).retire 4 [21])
  | fenceI : ExecShape s csr ((s.fenceIOp s.cur).retire 4 [22])
  | amo (bits : Word) (rd rs1 rs2 : RegIdx) (op : Word → Word → Word) : ExecShape s csr (s.amoInstr bits rd rs1 rs2 op)
  | lr (bits : Word) (rd rs1 : RegIdx) : ExecShape s csr (s.lrInstr bits rd rs1)
  | sc (bits : Word) (rd rs1 rs2 : RegIdx) : ExecShape s csr (s.scInstr bits rd rs1 rs2)
  | ecall : ExecShape s csr (s.exception .ecall 0 [20])
  | breakpoint : ExecShape s csr s.breakpoint
  | mret : ExecShape s csr ((s.retire 4 [23]).mapHart fun h => h.mret.clearReservation)
  | csrAccess (hcsr : csr = true) (bits : Word) (rd : RegIdx) (a : BitVec 12) (isWrite : Bool) (new : Word → Word) :
      ExecShape s csr (s.csrInstr bits rd a isWrite new)

/-- Every instruction has a next state, of one of the shapes. -/
theorem exec_shape (i : Instr) (s : State) : ∃ t, exec i s = .next t ∧ ExecShape s (isCsrInstr i) t := by
  cases i
  case jal | cJal => exact ⟨_, rfl, .jump _ _ _ fun h => even_add h (even_offset _)⟩
  case jalr | cJalr => exact ⟨_, rfl, .jump _ _ _ fun _ => even_and _⟩
  case cJ => exact ⟨_, rfl, .goTo _ _ _ fun h => even_add h (even_offset _)⟩
  case cJr => exact ⟨_, rfl, .goTo _ _ _ fun _ => even_and _⟩
  case beq | bne | blt | bge | bltu | bgeu => exact ⟨_, rfl, .branch _ _ _ rfl (even_offset _)⟩
  case lb | lh | lw | lbu | lhu | cLw | cLwsp => exact ⟨_, rfl, .load _ _ _ _ _ _ rfl⟩
  case sb | sh | sw | cSw | cSwsp => exact ⟨_, rfl, .store _ _ _ _ _ rfl⟩
  case fence => exact ⟨_, rfl, .fence⟩
  case fenceI => exact ⟨_, rfl, .fenceI⟩
  case ecall => exact ⟨_, rfl, .ecall⟩
  case ebreak | cEbreak => exact ⟨_, rfl, .breakpoint⟩
  case mret => exact ⟨_, rfl, .mret⟩
  case wfi | cNop => exact ⟨_, rfl, .retire _ _ rfl⟩
  case csrrw | csrrs | csrrc | csrrwi | csrrsi | csrrci => exact ⟨_, rfl, .csrAccess rfl _ _ _ _ _⟩
  case lrW => exact ⟨_, rfl, .lr _ _ _⟩
  case scW => exact ⟨_, rfl, .sc _ _ _ _⟩
  case amoswapW | amoaddW | amoxorW | amoandW | amoorW | amominW | amomaxW | amominuW | amomaxuW =>
    exact ⟨_, rfl, .amo _ _ _ _ _⟩
  case cBeqz | cBnez => exact ⟨_, rfl, .branch _ _ _ rfl (even_offset _)⟩
  all_goals exact ⟨_, rfl, .writeBack _ _ _ _ rfl⟩

/-- What is to be shown of the next state of any instruction is shown shape by shape. -/
theorem ExecShape.of_exec {i : Instr} {s t : State} (h : exec i s = .next t) : ExecShape s (isCsrInstr i) t := by
  obtain ⟨u, hu, shape⟩ := exec_shape i s
  cases hu.symm.trans h
  exact shape

/-! ## The build and the invariant -/

theorem ExecShape.cfg {s t : State} {csr : Bool} (h : ExecShape s csr t) : t.cfg = s.cfg := by
  cases h <;> simp

theorem ExecShape.inv {s t : State} {csr : Bool} (h : ExecShape s csr t) (i : s.Inv) (m : s.mayAct s.cur) : t.Inv := by
  have hpc : s.pc.getLsbD 0 = false := (i.hartOk s.cur).pc
  cases h
  case writeBack hlen => exact i.writeBack m _ _ hlen _ _
  case retire hlen => exact i.retire m _ _ hlen
  case goTo even => exact i.retireTo m _ _ _ (even hpc)
  case jump even => exact i.jump m _ _ _ (even hpc)
  case branch hlen even => exact i.branch m _ hlen _ _ even
  case load hlen => exact i.loadInstr m _ hlen _ _ _ _ _
  case store hlen => exact i.storeInstr m _ hlen _ _ _ _
  case fence => exact (i.fenceOp _).retire (State.mayAct_fenceOp m) _ _ rfl
  case fenceI => exact (i.fenceIOp _).retire (State.mayAct_fenceOp m) _ _ rfl
  case amo => exact i.amoInstr m _ _ _ _ _
  case lr => exact i.lrInstr m _ _ _
  case sc => exact i.scInstr m _ _ _ _
  case ecall => exact i.exception m _ _ _
  case breakpoint => exact i.breakpoint m
  case mret => exact (i.retire m 4 [23] rfl).onCur m _ fun o => o.mret.clearReservation
  case csrAccess => exact i.csrInstr m _ _ _ _ _

end Sys2Proof.Machine
end

section
/-! PROOFS. Every step keeps the invariant of Safety.lean and the build: the step of a running hart at a boundary and within an
instruction, of a sleeping and of a halted one, and the moves of the environment. -/

namespace Sys2Proof.Machine

/-! ## Instructions -/

theorem State.fetch_mayAct {s : State} (i : s.Inv) (m : s.mayAct s.cur) : s.fetch.2.mayAct s.fetch.2.cur :=
  State.mayAct_of m i.fetch.2.1 i.fetch.2.2

theorem mapNext_next {o : Host.Outcome State Fault Refusal} {f : State → State} {t : State} (h : mapNext o f = .next t) :
    ∃ u, o = .next u ∧ f u = t := by
  cases o with
  | next u =>
    cases h
    exact ⟨u, rfl, rfl⟩
  | fault _ => cases h
  | refused _ => cases h

theorem State.Inv.runInstr {s t : State} (i : s.Inv) (m : s.mayAct s.cur) {x : Instr} (h : s.runInstr x = .next t) :
    t.Inv ∧ t.cfg = s.cfg := by
  unfold State.runInstr at h
  split at h
  · cases h
    exact ⟨i.settle, State.settle_cfg s⟩
  split at h
  · cases h
    exact ⟨(i.begun.clearFlight m _).settle, State.settle_cfg _⟩
  split at h
  · cases h
    exact ⟨i.waitingBreakpoint m, State.waitingBreakpoint_cfg s⟩
  split at h
  · cases h
    exact ⟨(i.beginSplit m _ _ _).begun.settle, by simp⟩
  · obtain ⟨u, hu, rfl⟩ := mapNext_next h
    have shape := ExecShape.of_exec hu
    exact ⟨(shape.inv i m).begun.complete, by rw [State.complete_cfg, State.begun_cfg, shape.cfg]⟩

/-- What the triggers ask for keeps the invariant if what they let go on does. -/
theorem State.Inv.withTriggers {s t : State} (i : s.Inv) (m : s.mayAct s.cur) {a : Access}
    {go : State → Host.Outcome State Fault Refusal} (h : s.withTriggers a go = .next t)
    (hgo : ∀ u : State, u.Inv → u.mayAct u.cur → go u = .next t → t.Inv ∧ t.cfg = u.cfg) : t.Inv ∧ t.cfg = s.cfg := by
  obtain ⟨iu, hcur, hshared⟩ := i.evalTriggers m a
  have hcfg := State.evalTriggers_cfg s a
  unfold State.withTriggers at h
  generalize s.evalTriggers a = r at h iu hcur hshared hcfg
  obtain ⟨act, u⟩ := r
  have mu : u.mayAct u.cur := State.mayAct_of m hcur (by rw [hshared])
  cases act with
  | nothing =>
    obtain ⟨it, ht⟩ := hgo u iu mu h
    exact ⟨it, ht.trans hcfg⟩
  | breakpoint =>
    cases h
    exact ⟨(iu.exception mu _ _ _).complete, (State.complete_cfg _).trans hcfg⟩
  | debug =>
    cases h
    exact ⟨iu.tryHalt mu _ _, (State.tryHalt_cfg ..).trans hcfg⟩

theorem State.Inv.runFetched {u t : State} (i : u.Inv) (m : u.mayAct u.cur) {f : Fetched} (h : f.run u = .next t) :
    t.Inv ∧ t.cfg = u.cfg := by
  cases f with
  | fault c a =>
    cases h
    exact ⟨(i.exception m _ _ _).complete, State.complete_cfg _⟩
  | bytes l =>
    unfold Fetched.run at h
    dsimp only at h
    split at h
    · exact i.runInstr m h
    · cases h
      exact ⟨(i.exception m _ _ _).complete, State.complete_cfg _⟩

theorem State.Inv.instruction {s t : State} (i : s.Inv) (m : s.mayAct s.cur) (h : s.instruction = .next t) :
    t.Inv ∧ t.cfg = s.cfg := by
  unfold State.instruction at h
  split at h
  · cases h
    exact ⟨i.settle, State.settle_cfg s⟩
  · obtain ⟨it, ht⟩ := i.fetch.1.withTriggers (State.fetch_mayAct i m) h fun u iu mu hu => iu.runFetched mu hu
    exact ⟨it, ht.trans (State.fetch_cfg s)⟩

/-! ## The boundary -/

theorem State.debugTrigger_some {s u : State} (h : s.debugTrigger = some u) :
    u = (s.fetch.2.evalTriggers (s.fetch.1.access s.fetch.2)).2 := by
  unfold State.debugTrigger at h
  split at h
  · cases h
  · generalize s.fetch.2.evalTriggers (s.fetch.1.access s.fetch.2) = r at h ⊢
    obtain ⟨act, v⟩ := r
    cases act <;> cases h
    rfl

theorem State.Inv.atBoundary {s t : State} (i : s.Inv) (m : s.mayAct s.cur) (h : s.atBoundary = .next t) :
    t.Inv ∧ t.cfg = s.cfg := by
  unfold State.atBoundary at h
  split at h
  · cases h
    exact ⟨i.tryHalt m _ _, State.endStep_cfg s⟩
  split at h
  · split at h
    · next u hu =>
      cases h
      obtain ⟨iu, hcur, hshared⟩ := i.fetch.1.evalTriggers (State.fetch_mayAct i m) (s.fetch.1.access s.fetch.2)
      rw [← State.debugTrigger_some hu] at iu hcur hshared
      refine ⟨iu.tryHalt (State.mayAct_of (State.fetch_mayAct i m) hcur (by rw [hshared])) _ _, ?_⟩
      rw [State.tryHalt_cfg, State.debugTrigger_some hu, State.evalTriggers_cfg, State.fetch_cfg]
    · cases h
      exact ⟨i.tryHalt m _ _, State.tryHalt_cfg ..⟩
  split at h
  · split at h
    · cases h
      exact ⟨i.settle, State.settle_cfg s⟩
    · cases h
      refine ⟨State.Inv.settle (State.Inv.onCur (i.enterSleep m) ?_ _ fun o => ?_), by simp⟩
      · exact State.mayAct_drainAll m
      · exact o.congr o.pc o.mepc o.dpc rfl rfl rfl rfl rfl rfl
  · have key : ∀ u : State, u.Inv → u.mayAct u.cur → (if u.hart.nmi.pending then
        (.next (u.takePendingNmi u.cur).complete : Host.Outcome State Fault Refusal)
        else match u.interruptToTake u.cur with
          | some c => .next (u.takeInterrupt u.cur c).complete
          | none => if u.hart.pausing then .next u.settle else u.instruction) = .next t → t.Inv ∧ t.cfg = u.cfg := by
      intro u iu mu hu
      split at hu
      · cases hu
        exact ⟨(iu.takePendingNmi mu).complete, by simp⟩
      split at hu
      · cases hu
        exact ⟨(iu.takeInterrupt mu _).complete, by simp⟩
      split at hu
      · cases hu
        exact ⟨iu.settle, State.settle_cfg u⟩
      · exact iu.instruction mu hu
    by_cases hp : (s.hart.pausing && s.endsPause s.cur) = true
    · rw [if_pos hp] at h
      have j : (s.mapHart fun x => { x with power := { x.power with pauseCount := 0 } }).Inv :=
        i.onCur m _ fun o => o.congr o.pc o.mepc o.dpc rfl rfl rfl rfl rfl rfl
      have k := key _ j m h
      exact k
    · rw [if_neg hp] at h
      exact key s i m h

theorem State.Inv.resumeAccess {s t : State} (i : s.Inv) (m : s.mayAct s.cur) {f : InFlight}
    (h : s.resumeAccess f = .next t) : t.Inv ∧ t.cfg = s.cfg := by
  unfold State.resumeAccess at h
  split at h
  · cases h
    split
    · exact ⟨i.tryHalt m _ _, State.tryHalt_cfg ..⟩
    · exact ⟨i.settle, State.settle_cfg s⟩
  cases f with
  | sent x => exact (i.clearFlight m none).runInstr m h
  | half x low =>
    dsimp only at h
    split at h
    · next p hp =>
      cases h
      exact ⟨(i.finishSplit m p (memOp_len x p hp) low).complete, by simp⟩
    · cases h
      exact ⟨(i.clearFlight m none).settle, by simp⟩

/-! ## The step of a hart -/

theorem State.Inv.running {s t : State} (i : s.Inv) (m : s.mayAct s.cur) (h : s.running = .next t) :
    t.Inv ∧ t.cfg = s.cfg := by
  unfold State.running at h
  split at h
  · exact i.resumeAccess m h
  · exact i.atBoundary m h

theorem State.Inv.sleeping {s : State} (i : s.Inv) (m : s.mayAct s.cur) : s.sleeping.Inv ∧ s.sleeping.cfg = s.cfg := by
  unfold State.sleeping
  split
  · exact ⟨(i.haltNow m _ _).settle, by simp⟩
  split
  · refine ⟨State.Inv.settle (i.onCur m _ fun o => ?_), by simp⟩
    exact o.congr o.pc o.mepc o.dpc rfl rfl rfl rfl rfl rfl
  · exact ⟨i.settle, State.settle_cfg s⟩

theorem State.Inv.halting {s : State} (i : s.Inv) (m : s.mayAct s.cur) : s.halting.Inv ∧ s.halting.cfg = s.cfg := by
  unfold State.halting
  refine ⟨State.Inv.settle (i.onCur m _ fun o => ?_), by simp⟩
  split
  · exact o.congr o.pc o.mepc o.dpc rfl rfl rfl rfl rfl rfl
  · exact o

theorem State.Inv.hartStep {s t : State} (i : s.Inv) (h : s.hartStep = .next t) : t.Inv ∧ t.cfg = s.cfg := by
  have m : s.hart.activity ≠ .idle → s.mayAct s.cur := i.mayAct s.cur
  unfold State.hartStep at h
  split at h
  · cases h
    exact ⟨i.settle, State.settle_cfg s⟩
  · next ha => exact i.running (m (by rw [ha]; decide)) h
  · next ha =>
    cases h
    exact i.halting (m (by rw [ha]; decide))
  · next ha =>
    cases h
    exact i.sleeping (m (by rw [ha]; decide))

theorem State.Inv.harts? {s t : State} (i : s.Inv) (h : s.harts? = .next t) : t.Inv ∧ t.cfg = s.cfg := by
  unfold State.harts? at h
  split at h
  · cases h
  split at h
  · cases h
    exact ⟨i, rfl⟩
  · exact i.hartStep h

/-! ## The environment -/

theorem State.Inv.pmuHalt {s t : State} (i : s.Inv) {k b} (h : s.pmuHalt k b = .ok t) : t.Inv := by
  simp only [State.pmuHalt] at h
  split_ifs at h <;> cases h
  · exact i
  · exact (i.mapPins k _).mapHartAt k _ (fun o => o.congr o.pc o.mepc o.dpc rfl rfl rfl rfl rfl rfl) fun _ _ e => e
  · exact (i.mapPins k _).mapHartAt k _ (fun o => o.congr o.pc o.mepc o.dpc rfl rfl rfl rfl rfl rfl) fun _ _ e => e

theorem State.Inv.pmuRun {s t : State} (i : s.Inv) {k b} (h : s.pmuRun k b = .ok t) : t.Inv := by
  simp only [State.pmuRun] at h
  split at h
  · cases h
    exact i
  split at h
  · cases h
  cases h
  refine (i.mapPins k _).mapHartAt k _ (fun o => ?_) fun _ _ e => ?_
  · split
    · exact o.congr o.pc o.mepc o.dpc rfl rfl rfl rfl rfl rfl
    · exact o
  · split
    · simp [e]
    · exact e

theorem State.Inv.mpcHalt {s t : State} (i : s.Inv) {k b} (h : s.mpcHalt k b = .ok t) : t.Inv := by
  simp only [State.mpcHalt] at h
  split_ifs at h <;> cases h
  · exact i
  · refine (i.mapPins k _).mapHartAt k _ (fun o => ?_) fun _ _ e => ?_
    · split <;> exact o.congr o.pc o.mepc o.dpc rfl rfl rfl rfl rfl rfl
    · split <;> exact e
  · exact (i.mapPins k _).mapHartAt k _ (fun o => o.congr o.pc o.mepc o.dpc rfl rfl rfl rfl rfl rfl) fun _ _ e => e

theorem State.Inv.mpcRun {s t : State} (i : s.Inv) {k b} (h : s.mpcRun k b = .ok t) : t.Inv := by
  simp only [State.mpcRun] at h
  split_ifs at h <;> cases h
  · exact i
  · refine State.Inv.tryResume ((i.mapPins k _).mapHartAt k _ (fun o => ?_) fun _ _ e => e) k
    exact o.congr o.pc o.mepc o.dpc rfl rfl rfl rfl rfl rfl
  · exact (i.mapPins k _).mapHartAt k _ (fun o => o.congr o.pc o.mepc o.dpc rfl rfl rfl rfl rfl rfl) fun _ _ e => e

theorem State.Inv.nmiEdge {s : State} (i : s.Inv) (b : Bool) : (s.nmiEdge b).Inv where
  mem := i.mem
  hart0 := i.hart0.congr i.hart0.pc i.hart0.mepc i.hart0.dpc rfl rfl rfl rfl rfl rfl
  hart1 := i.hart1.congr i.hart1.pc i.hart1.mepc i.hart1.dpc rfl rfl rfl rfl rfl rfl
  shared := i.shared
  started := i.started

theorem State.Inv.dmaWrite {s t : State} (i : s.Inv) {a n b d} (h : s.dmaWrite a n b d = .ok t) : t.Inv := by
  simp only [State.dmaWrite] at h
  have j := i.countDma (514 :: if inDccm s.cfg a.toNat = true then [516] else [])
  generalize s.countDma (514 :: if inDccm s.cfg a.toNat = true then [516] else []) = u at h j
  split_ifs at h <;> cases h
  · exact j.congr j.mem rfl rfl
  · have k := (j.dmaWord (a &&& 0xFFFFFFF8) (d.extractLsb' 0 32)).dmaWord ((a &&& 0xFFFFFFF8) + 4) (d.extractLsb' 32 32)
    exact k.congr k.mem rfl rfl
  · have k := j.dmaWord (a &&& 0xFFFFFFF8) (d.extractLsb' 0 32)
    exact k.congr k.mem rfl rfl
  · have k := j.dmaWord ((a &&& 0xFFFFFFF8) + 4) (d.extractLsb' 32 32)
    exact k.congr k.mem rfl rfl

theorem State.Inv.paceDebug {s t : State} (i : s.Inv) {b} (h : s.paceDebug b = .ok t) : t.Inv := by
  simp only [State.paceDebug] at h
  split at h
  · cases h
    exact i.env _
  · exact State.Inv.finishDebug (i.env _) h

/-- An injected error counts one error more, below the threshold as before. -/
theorem State.Inv.icacheErrorAt {s : State} (i : s.Inv) (n) : (s.icacheErrorAt n).Inv := by
  unfold State.icacheErrorAt
  split
  · have o := i.shared
    have j := i.withShared { s.shared with micect := bumpErrors s.shared.micect }
      ⟨o.mrac, by rw [bumpErrors_threshold]; exact o.micect, o.miccmect, o.mdccmect, o.mfdc, o.mnmipdel⟩ rfl
    exact j.congr j.mem rfl rfl
  · exact i

theorem State.Inv.iccmErrorNow {s : State} (i : s.Inv) : s.iccmErrorNow.Inv := by
  unfold State.iccmErrorNow
  split
  · have o := i.shared
    exact i.withShared { s.shared with miccmect := bumpErrors s.shared.miccmect }
      ⟨o.mrac, o.micect, by rw [bumpErrors_threshold]; exact o.miccmect, o.mdccmect, o.mfdc, o.mnmipdel⟩ rfl
  · exact i

theorem State.Inv.dccmErrorNow {s : State} (i : s.Inv) : s.dccmErrorNow.Inv := by
  unfold State.dccmErrorNow
  split
  · have o := i.shared
    exact i.withShared { s.shared with mdccmect := bumpErrors s.shared.mdccmect }
      ⟨o.mrac, o.micect, o.miccmect, by rw [bumpErrors_threshold]; exact o.mdccmect, o.mfdc, o.mnmipdel⟩ rfl
  · exact i

theorem State.Inv.move {s t : State} (i : s.Inv) {e} (h : s.move e = .ok t) : t.Inv := by
  cases e
  case cpuHaltReq => exact i.pmuHalt h
  case cpuRunReq => exact i.pmuRun h
  case mpcHaltReq => exact i.mpcHalt h
  case mpcRunReq => exact i.mpcRun h
  case jtagScan => exact i.jtagScan _ _ h
  case dmaWrite => exact i.dmaWrite h
  case debugPace => exact i.paceDebug h
  all_goals cases h
  case nmi b => exact i.nmiEdge b
  case dmaRead => exact (i.countDma _).congr (i.countDma _).mem rfl rfl
  case socWrite a v =>
    unfold State.socWrite
    split
    · exact i.congr (memWf_memWrite _ _ _ i.mem) rfl rfl
    · exact i
  case icacheError n => exact i.icacheErrorAt n
  case iccmError => exact i.iccmErrorNow
  case dccmError => exact i.dccmErrorNow
  case doubleBitError =>
    unfold State.spoilWord
    dsimp only
    split
    · exact i.congr i.mem rfl rfl
    · exact i
  case repair =>
    unfold State.repairWord
    dsimp only
    split
    · exact i.congr i.mem rfl rfl
    · exact i
  case schedule =>
    split
    · exact i.congr i.mem rfl rfl
    · exact i
  case softInt | timerInt => exact i.mapPins _ _
  case debugReset | jtagReset => exact i.dm _
  case pace | hold | stall | split => exact i.env _
  case proceed => exact i
  case extInt | coreReset => exact i.congr i.mem rfl rfl

theorem State.Inv.applyEvent {s t : State} (i : s.Inv) {e} (h : s.applyEvent e = .ok t) : t.Inv := by
  unfold State.applyEvent at h
  cases hm : s.move e with
  | error _ => rw [hm] at h; cases h
  | ok u =>
    rw [hm] at h
    cases h
    exact ((i.move hm).followReset _).handshakes

/-! ## The step -/

theorem State.Inv.stepOnce {s t : State} (i : s.Inv) (h : s.stepOnce = .next t) : t.Inv ∧ t.cfg = s.cfg := by
  unfold State.stepOnce at h
  split at h
  · split at h
    · exact i.harts? h
    · have k := (i.env _).harts? h
      exact k
    · split at h
      · next u hu =>
        cases h
        have hcfg := State.applyEvent_cfg hu
        exact ⟨(i.env _).applyEvent hu, hcfg⟩
      · cases h
  · cases h

/-- Settles O57: every part of a step keeps the invariant and the build. -/
theorem invariantKept : Obligations.InvariantKept := by
  unfold Obligations.InvariantKept
  exact fun s t i h => i.stepOnce h

/-- Settles O56: every part of the reset state is as the invariant says. -/
theorem invariantAtReset : Obligations.InvariantAtReset := by
  unfold Obligations.InvariantAtReset
  exact fun cfg => ⟨rfl, Hart.ok_outOfReset cfg _ _, Hart.ok_resetWith cfg _, SharedRegs.ok_resetWith cfg, fun _ => rfl⟩

end Sys2Proof.Machine
end

section
/-! PROOFS. What holds of every instruction and of every step: in a proper build the machine goes on, an instruction leaves the
other hart alone, and only CSR instructions change how a hart is configured. -/

namespace Sys2Proof.Machine

/-! ## The machine goes on -/

theorem State.runInstr_next (s : State) (i : Instr) : ∃ t, s.runInstr i = .next t := by
  unfold State.runInstr
  split
  · exact ⟨_, rfl⟩
  split
  · exact ⟨_, rfl⟩
  split
  · exact ⟨_, rfl⟩
  split
  · exact ⟨_, rfl⟩
  · obtain ⟨t, ht, _⟩ := exec_shape i s
    exact ⟨_, by rw [ht]; rfl⟩

theorem State.withTriggers_next (s : State) (a : Access) {go : State → Host.Outcome State Fault Refusal}
    (hgo : ∀ u, ∃ t, go u = .next t) : ∃ t, s.withTriggers a go = .next t := by
  unfold State.withTriggers
  split
  · exact hgo _
  · exact ⟨_, rfl⟩
  · exact ⟨_, rfl⟩

theorem Fetched.run_next (f : Fetched) (u : State) : ∃ t, f.run u = .next t := by
  cases f with
  | fault c a => exact ⟨_, rfl⟩
  | bytes l =>
    unfold Fetched.run
    dsimp only
    split
    · exact u.runInstr_next _
    · exact ⟨_, rfl⟩

theorem State.instruction_next (s : State) : ∃ t, s.instruction = .next t := by
  unfold State.instruction
  split
  · exact ⟨_, rfl⟩
  · exact State.withTriggers_next _ _ fun u => Fetched.run_next _ u

theorem State.atBoundary_next (s : State) : ∃ t, s.atBoundary = .next t := by
  unfold State.atBoundary
  split
  · exact ⟨_, rfl⟩
  split
  · split <;> exact ⟨_, rfl⟩
  split
  · split <;> exact ⟨_, rfl⟩
  · generalize (if (s.hart.pausing && s.endsPause s.cur) = true then
      s.mapHart fun h => { h with power := { h.power with pauseCount := 0 } } else s) = u
    dsimp only
    split
    · exact ⟨_, rfl⟩
    split
    · exact ⟨_, rfl⟩
    split
    · exact ⟨_, rfl⟩
    · exact u.instruction_next

theorem State.resumeAccess_next (s : State) (f : InFlight) : ∃ t, s.resumeAccess f = .next t := by
  unfold State.resumeAccess
  split
  · exact ⟨_, rfl⟩
  · cases f with
    | sent i => exact State.runInstr_next _ i
    | half i low =>
      dsimp only
      split <;> exact ⟨_, rfl⟩

theorem State.hartStep_next (s : State) : ∃ t, s.hartStep = .next t := by
  unfold State.hartStep
  split
  · exact ⟨_, rfl⟩
  · unfold State.running
    split
    · exact s.resumeAccess_next _
    · exact s.atBoundary_next
  · exact ⟨_, rfl⟩
  · exact ⟨_, rfl⟩

/-- Settles O58: no branch of a hart's step is a fault or a refusal. -/
theorem machineNeverStops : Obligations.MachineNeverStops := by
  unfold Obligations.MachineNeverStops
  intro s hbuild hinputs hhart
  have hthere : ¬(s.cur = .t1 ∧ (!s.cfg.dualThread) = true) := by
    rintro ⟨hcur, hsingle⟩
    rcases hhart with h | h
    · rw [hcur] at h
      cases h
    · rw [h] at hsingle
      cases hsingle
  change ∃ t, s.stepOnce = .next t
  unfold State.stepOnce
  rw [if_pos hbuild, hinputs]
  dsimp only
  unfold State.harts?
  rw [if_neg hthere]
  split
  · exact ⟨_, rfl⟩
  · exact s.hartStep_next

/-! ## The other hart -/

/-- `h'` is `h`, but perhaps for its reservation, which is then gone. -/
def LosesReservation (h h' : Hart) : Prop :=
  h' = { h with reservation := h'.reservation } ∧ (h'.reservation = h.reservation ∨ h'.reservation = none)

theorem LosesReservation.trans {a b c : Hart} (h : LosesReservation a b) (k : LosesReservation b c) :
    LosesReservation a c := by
  obtain ⟨h1, h2⟩ := h
  obtain ⟨k1, k2⟩ := k
  refine ⟨by rw [k1, h1], ?_⟩
  rcases k2 with k2 | k2
  · rw [k2]
    exact h2
  · exact .inr k2

theorem LosesReservation.seeStore (h : Hart) (a n : Nat) : LosesReservation h (h.seeStore a n) := by
  unfold Hart.seeStore
  split
  · split
    · exact ⟨rfl, .inr rfl⟩
    · exact ⟨rfl, .inl rfl⟩
  · exact ⟨rfl, .inl rfl⟩

/-- From `s` to `t` hart `k` acts: of the other hart nothing changes but its reservation. -/
def State.Apart (k : HartId) (s t : State) : Prop := LosesReservation (s.hartAt k.other) (t.hartAt k.other)

section apart
variable {k : HartId} {s t u : State}

theorem State.Apart.of_eq (h : t.hartAt k.other = s.hartAt k.other) : s.Apart k t := by
  unfold State.Apart
  rw [h]
  exact ⟨rfl, .inl rfl⟩

theorem State.Apart.trans (h : s.Apart k t) (h' : t.Apart k u) : s.Apart k u := LosesReservation.trans h h'

theorem State.Apart.mapHartAt (h : s.Apart k t) (f : Hart → Hart) : s.Apart k (t.mapHartAt k f) :=
  h.trans (.of_eq (by cases k <;> rfl))

/-- Whatever the executing hart does to itself. -/
theorem State.Apart.mapHart (h : s.Apart s.cur t) (hcur : t.cur = s.cur) (f : Hart → Hart) :
    s.Apart s.cur (t.mapHart f) := by
  unfold State.mapHart
  rw [hcur]
  exact h.mapHartAt f

theorem State.apart_refl (k : HartId) (s : State) : s.Apart k s := .of_eq rfl

theorem State.apart_mapHart (s : State) (f : Hart → Hart) : s.Apart s.cur (s.mapHart f) :=
  (State.apart_refl s.cur s).mapHart rfl f

theorem State.apart_afterDrain (k : HartId) (s : State) (m n b) : s.Apart k (s.afterDrain k m n b) :=
  .of_eq (State.afterDrain_hartAt_other s k m n b)

theorem State.apart_drainAll (k : HartId) (s : State) : s.Apart k (s.drainAll k) := .of_eq (State.drainAll_hartAt_other s k)

theorem State.apart_fenceOp (k : HartId) (s : State) : s.Apart k (s.fenceOp k) := .of_eq (State.fenceOp_hartAt_other s k)

theorem State.apart_fenceIOp (k : HartId) (s : State) : s.Apart k (s.fenceIOp k) := by
  have h := (State.apart_fenceOp k s).mapHartAt fun x => { x with seen := { x.seen with fetch := s.shared.mrac } }
  exact h

theorem State.apart_readChecked (s : State) (a n) : s.Apart s.cur (s.readChecked a n).2 := by
  obtain ⟨m, q, b, h⟩ := s.readChecked_frame a n
  rw [h]
  exact State.apart_afterDrain ..

theorem State.apart_dccmStore (s : State) (a v n) : s.Apart s.cur (s.dccmStore a v n) := by
  unfold State.Apart
  rw [State.dccmStore_other]
  exact .seeStore ..

theorem State.picWrite_hartAt (s : State) (o v k) : (s.picWrite o v).hartAt k = s.hartAt k :=
  congrArg (fun p : Pair Hart => p.get k) (State.picWrite_harts s o v)

theorem State.picWrite_hart (s : State) (o v) : (s.picWrite o v).hart = s.hart := by
  rw [State.hart, State.picWrite_hartAt, State.picWrite_cur, State.hart]

theorem State.apart_writeChecked (s : State) (a v n) : s.Apart s.cur (s.writeChecked a v n) := by
  unfold State.writeChecked
  split
  · exact s.apart_dccmStore a v n
  split
  · exact .of_eq (State.picWrite_hartAt ..)
  · unfold State.busStore
    exact (State.apart_refl s.cur s).mapHartAt _

theorem State.apart_writeMpmc (k : HartId) (s : State) (w d) : s.Apart k (s.writeMpmc k w d) := by
  unfold State.writeMpmc
  dsimp only
  split
  · exact ((((State.apart_refl k s).mapHartAt _).mapHartAt _).trans (State.apart_drainAll k _)).mapHartAt _
  · exact (State.apart_refl k s).mapHartAt _

/-- A CSR write touches the other hart only where it starts hart 1. -/
theorem State.apart_csrWrite (k : HartId) (s : State) (r w d) (h1 : s.shared.start1 = true) :
    s.Apart k (s.csrWrite k r w d) := by
  cases r
  case dmst =>
    change s.Apart k (s.writeDmst k w)
    unfold State.writeDmst
    split
    · exact State.apart_fenceIOp k s
    split
    · exact State.apart_fenceOp k s
    · exact State.apart_refl k s
  case mpmc => exact State.apart_writeMpmc k s w d
  case dicago =>
    unfold State.csrWrite State.diagWrite
    dsimp only
    split_ifs <;> exact .of_eq rfl
  case mhartstart =>
    unfold State.csrWrite State.startHart1
    simp only [h1, Bool.not_true, Bool.and_false, Bool.false_eq_true, if_false, ite_self]
    exact State.apart_refl k s
  case mrac | mfdht | micect | miccmect | mdccmect | mcgc | mfdc | mnmipdel => exact .of_eq rfl
  case misa | mip | zero | mvendorid | marchid | mimpid | mhartid | mdseac | mhartnum | meihap => exact .of_eq rfl
  all_goals exact (State.apart_refl k s).mapHartAt _

end apart

/-- The other hart after any shape of instruction. -/
theorem ExecShape.apart {s t : State} {csr : Bool} (h : ExecShape s csr t) (h1 : s.shared.start1 = true) :
    s.Apart s.cur t := by
  have fenced : s.Apart s.cur s.implicitFence := State.apart_fenceOp s.cur s
  have fcur : s.implicitFence.cur = s.cur := State.fenceOp_cur s s.cur
  have stored (u : State) (hu : s.Apart s.cur u) (hc : u.cur = s.cur) (a v : Word) :
      s.Apart s.cur (u.dccmStore a v 4) := by
    have d := u.apart_dccmStore a v 4
    rw [hc] at d
    exact hu.trans d
  cases h
  case writeBack | retire | goTo | ecall => exact s.apart_mapHart _
  case jump => exact (s.apart_mapHart _).mapHart rfl _
  case mret => exact (s.apart_mapHart _).mapHart rfl _
  case branch =>
    unfold State.branch
    split <;> exact s.apart_mapHart _
  case load b off n _ _ =>
    unfold State.loadInstr
    dsimp only
    split
    · exact s.apart_mapHart _
    · refine (s.apart_readChecked (b + off) n).mapHart ?_ _
      obtain ⟨m, q, l, e⟩ := s.readChecked_frame (b + off) n
      rw [e, State.afterDrain_cur]
  case store b off v n _ =>
    unfold State.storeInstr
    dsimp only
    split
    · exact s.apart_mapHart _
    · exact (s.apart_writeChecked (b + off) v n).mapHart (State.writeChecked_cur s _ v n).1 _
  case fence => exact (State.apart_fenceOp s.cur s).mapHart (State.fenceOp_cur s s.cur) _
  case fenceI => exact (State.apart_fenceIOp s.cur s).mapHart (State.fenceOp_cur s s.cur) _
  case amo =>
    unfold State.amoInstr
    dsimp only
    split
    · split
      · exact fenced.mapHart fcur _
      · exact (stored _ fenced fcur _ _).mapHart fcur _
    · exact s.apart_mapHart _
  case lr =>
    unfold State.lrInstr
    dsimp only
    split
    · split
      · exact fenced.mapHart fcur _
      · exact (fenced.mapHart fcur _).mapHart fcur _
    · exact s.apart_mapHart _
  case sc =>
    unfold State.scInstr
    dsimp only
    split
    · split
      · exact fenced.mapHart fcur _
      · split
        · exact ((stored _ fenced fcur _ _).mapHart fcur _).mapHart fcur _
        · exact (fenced.mapHart fcur _).mapHart fcur _
    · exact s.apart_mapHart _
  case breakpoint =>
    unfold State.breakpoint
    split
    · exact (State.apart_drainAll s.cur s).mapHart (State.drainAll_cur s s.cur) _
    · exact s.apart_mapHart _
  case csrAccess =>
    unfold State.csrInstr
    dsimp only
    split
    · exact s.apart_mapHart _
    · next r _ =>
      have hr (e : List Nat) : s.Apart s.cur (s.retire 4 e) := s.apart_mapHart fun h => h.retire 4 e
      split
      · refine ((hr _).trans (State.apart_csrWrite s.cur _ r _ false h1)).mapHart ?_ _
        exact (State.csrWrite_cur _ s.cur r _ false).1
      · exact (hr _).mapHart rfl _

/-- Settles O59: shape by shape. -/
theorem hartsAreApart : Obligations.HartsAreApart := by
  unfold Obligations.HartsAreApart
  exact fun i s t h1 h => (ExecShape.of_exec h).apart h1

/-! ## What only CSR instructions configure -/

/-- What only a CSR write changes of a hart: three trap registers, the triggers, the timers but for `mit_hold`, the counter
selectors and the inhibit bits. -/
structure SameConfig (h h' : Hart) : Prop where
  mtvec : h'.trap.mtvec = h.trap.mtvec
  mie : h'.trap.mie = h.trap.mie
  mscratch : h'.trap.mscratch = h.trap.mscratch
  trig : h'.trig = h.trig
  tim0 : h'.tim0 = { h.tim0 with hold := h'.tim0.hold }
  tim1 : h'.tim1 = { h.tim1 with hold := h'.tim1.hold }
  selectors : ∀ n, h'.ctr.sel n = h.ctr.sel n
  inhibit : h'.ctr.inhibit = h.ctr.inhibit

theorem SameConfig.refl (h : Hart) : SameConfig h h := ⟨rfl, rfl, rfl, rfl, rfl, rfl, fun _ => rfl, rfl⟩

theorem SameConfig.trans {a b c : Hart} (h : SameConfig a b) (k : SameConfig b c) : SameConfig a c where
  mtvec := k.mtvec.trans h.mtvec
  mie := k.mie.trans h.mie
  mscratch := k.mscratch.trans h.mscratch
  trig := k.trig.trans h.trig
  tim0 := by rw [k.tim0, h.tim0]
  tim1 := by rw [k.tim1, h.tim1]
  selectors n := (k.selectors n).trans (h.selectors n)
  inhibit := k.inhibit.trans h.inhibit

/-- A change of the other fields of a hart. -/
theorem SameConfig.of_fields {h h' : Hart} (etrap : h'.trap = h.trap) (etrig : h'.trig = h.trig) (etim0 : h'.tim0 = h.tim0)
    (etim1 : h'.tim1 = h.tim1) (ectr : h'.ctr = h.ctr) : SameConfig h h' := by
  refine ⟨?_, ?_, ?_, etrig, ?_, ?_, fun n => ?_, ?_⟩ <;> simp only [etrap, etim0, etim1, ectr]

theorem SameConfig.count (h : Hart) (evs : List Nat) : SameConfig h (h.count evs) := by
  unfold Hart.count
  split
  · exact ⟨rfl, rfl, rfl, rfl, rfl, rfl, fun n => by cases n <;> rfl, rfl⟩
  · exact .refl h

theorem SameConfig.retireTo (h : Hart) (a : Word) (len : Nat) (evs : List Nat) : SameConfig h (h.retireTo a len evs) := by
  unfold Hart.retireTo
  split
  · exact ⟨rfl, rfl, rfl, rfl, rfl, rfl, fun n => by cases n <;> rfl, rfl⟩
  · exact .of_fields rfl rfl rfl rfl rfl

theorem SameConfig.setReg (h : Hart) (r : RegIdx) (v : Word) : SameConfig h (h.setReg r v) := by
  unfold Hart.setReg
  split
  · exact .refl h
  · exact .of_fields rfl rfl rfl rfl rfl

theorem SameConfig.enterTrap (h : Hart) (e : Word) (c : Cause) (v t : Word) : SameConfig h (h.enterTrap e c v t) :=
  ⟨rfl, rfl, rfl, rfl, rfl, rfl, fun _ => rfl, rfl⟩

theorem SameConfig.exception (h : Hart) (c : Cause) (v : Word) (evs : List Nat) : SameConfig h (h.exception c v evs) :=
  (SameConfig.count h _).trans (.enterTrap ..)

theorem SameConfig.mret (h : Hart) : SameConfig h h.mret.clearReservation :=
  ⟨rfl, rfl, rfl, rfl, rfl, rfl, fun _ => rfl, rfl⟩

theorem SameConfig.enterDebug (h : Hart) (c k a b) : SameConfig h (h.enterDebug c k a b) :=
  ⟨rfl, rfl, rfl, rfl, rfl, rfl, fun _ => rfl, rfl⟩

/-- The executing hart goes on as it was configured, and so do the registers that the harts share. -/
structure State.KeepsConfig (s t : State) : Prop where
  cur : t.cur = s.cur
  shared : t.shared = s.shared
  hart : SameConfig s.hart t.hart

theorem State.KeepsConfig.mapHart {s t : State} (h : s.KeepsConfig t) {f : Hart → Hart} (hf : SameConfig t.hart (f t.hart)) :
    s.KeepsConfig (t.mapHart f) where
  cur := h.cur
  shared := h.shared
  hart := by
    rw [State.hart_mapHart]
    exact h.hart.trans hf

theorem State.keepsConfig_refl (s : State) : s.KeepsConfig s := ⟨rfl, rfl, .refl _⟩

theorem State.keepsConfig_mapHart (s : State) {f : Hart → Hart} (hf : SameConfig s.hart (f s.hart)) :
    s.KeepsConfig (s.mapHart f) :=
  s.keepsConfig_refl.mapHart hf

theorem State.keepsConfig_afterDrain (s : State) (m n b) : s.KeepsConfig (s.afterDrain s.cur m n b) where
  cur := rfl
  shared := rfl
  hart := by
    have e : (s.afterDrain s.cur m n b).hart = { s.hart with nmi := n, buffer := b } := State.afterDrain_hartAt ..
    rw [e]
    exact .of_fields rfl rfl rfl rfl rfl

theorem State.keepsConfig_drainAll (s : State) : s.KeepsConfig (s.drainAll s.cur) := by
  rw [State.drainAll_frame]
  exact s.keepsConfig_afterDrain ..

theorem State.keepsConfig_fenceOp (s : State) : s.KeepsConfig (s.fenceOp s.cur) := by
  have h := s.keepsConfig_drainAll.mapHart (f := fun x => { x with seen := { x.seen with data := s.shared.mrac } })
    (.of_fields rfl rfl rfl rfl rfl)
  rw [State.mapHart, State.drainAll_cur] at h
  exact h

theorem State.keepsConfig_fenceIOp (s : State) : s.KeepsConfig (s.fenceIOp s.cur) := by
  have h := s.keepsConfig_fenceOp.mapHart (f := fun x => { x with seen := { x.seen with fetch := s.shared.mrac } })
    (.of_fields rfl rfl rfl rfl rfl)
  rw [State.mapHart, State.fenceOp_cur] at h
  exact ⟨h.cur, h.shared, h.hart⟩

theorem State.keepsConfig_readChecked (s : State) (a n) : s.KeepsConfig (s.readChecked a n).2 := by
  obtain ⟨m, q, b, h⟩ := s.readChecked_frame a n
  rw [h]
  exact s.keepsConfig_afterDrain ..

theorem State.KeepsConfig.dccmStore {s t : State} (h : s.KeepsConfig t) (a v n) : s.KeepsConfig (t.dccmStore a v n) :=
  ⟨h.cur, h.shared, by rw [State.dccmStore_hart]; exact h.hart⟩

theorem State.keepsConfig_writeChecked (s : State) (a v n) : s.KeepsConfig (s.writeChecked a v n) := by
  unfold State.writeChecked
  split
  · exact s.keepsConfig_refl.dccmStore a v n
  split
  · exact ⟨State.picWrite_cur .., State.picWrite_shared .., by rw [State.picWrite_hart]; exact .refl _⟩
  · unfold State.busStore
    exact s.keepsConfig_mapHart (.of_fields rfl rfl rfl rfl rfl)

/-- Every shape but a CSR instruction leaves the hart configured as it was. -/
theorem ExecShape.keepsConfig {s t : State} (h : ExecShape s false t) : s.KeepsConfig t := by
  cases h
  case writeBack => exact s.keepsConfig_mapHart ((SameConfig.retireTo ..).trans (.setReg ..))
  case retire | goTo => exact s.keepsConfig_mapHart (.retireTo ..)
  case jump =>
    unfold State.jump
    exact (s.keepsConfig_mapHart (.retireTo ..)).mapHart (.setReg ..)
  case branch =>
    unfold State.branch
    split <;> exact s.keepsConfig_mapHart (.retireTo ..)
  case load =>
    unfold State.loadInstr
    dsimp only
    split
    · exact s.keepsConfig_mapHart (.exception ..)
    · exact (s.keepsConfig_readChecked _ _).mapHart ((SameConfig.retireTo ..).trans (.setReg ..))
  case store =>
    unfold State.storeInstr
    dsimp only
    split
    · exact s.keepsConfig_mapHart (.exception ..)
    · exact (s.keepsConfig_writeChecked _ _ _).mapHart (.retireTo ..)
  case fence => exact s.keepsConfig_fenceOp.mapHart (.retireTo ..)
  case fenceI => exact s.keepsConfig_fenceIOp.mapHart (.retireTo ..)
  case amo =>
    unfold State.amoInstr
    dsimp only
    split
    · split
      · exact s.keepsConfig_fenceOp.mapHart (.exception ..)
      · exact (s.keepsConfig_fenceOp.dccmStore _ _ _).mapHart ((SameConfig.retireTo ..).trans (.setReg ..))
    · exact s.keepsConfig_mapHart (.exception ..)
  case lr =>
    unfold State.lrInstr
    dsimp only
    split
    · split
      · exact s.keepsConfig_fenceOp.mapHart (.exception ..)
      · exact (s.keepsConfig_fenceOp.mapHart (.of_fields rfl rfl rfl rfl rfl)).mapHart
          ((SameConfig.retireTo ..).trans (.setReg ..))
    · exact s.keepsConfig_mapHart (.exception ..)
  case sc =>
    unfold State.scInstr
    dsimp only
    split
    · split
      · exact s.keepsConfig_fenceOp.mapHart (.exception ..)
      · split
        · exact ((s.keepsConfig_fenceOp.dccmStore _ _ _).mapHart (.of_fields rfl rfl rfl rfl rfl)).mapHart
            ((SameConfig.retireTo ..).trans (.setReg ..))
        · exact (s.keepsConfig_fenceOp.mapHart (.of_fields rfl rfl rfl rfl rfl)).mapHart
            ((SameConfig.retireTo ..).trans (.setReg ..))
    · exact s.keepsConfig_mapHart (.exception ..)
  case ecall => exact s.keepsConfig_mapHart (.exception ..)
  case breakpoint =>
    unfold State.breakpoint
    split
    · refine s.keepsConfig_drainAll.mapHart (SameConfig.trans ?_ (.enterDebug ..))
      unfold Hart.countBreakpoint
      split
      · exact .refl _
      · exact .count ..
    · exact s.keepsConfig_mapHart (.exception ..)
  case mret => exact (s.keepsConfig_mapHart (.retireTo ..)).mapHart (.mret _)
  case csrAccess hcsr _ _ _ _ _ => cases hcsr

/-- Settles O60: shape by shape; the instruction is no CSR instruction. -/
theorem onlyCsrInstructionsConfigure : Obligations.OnlyCsrInstructionsConfigure := by
  unfold Obligations.OnlyCsrInstructionsConfigure
  intro i s t h hno
  have hcsr : isCsrInstr i = false := by
    cases i
    case csrrw rd a x => exact absurd rfl (hno rd a x).1
    case csrrs rd a x => exact absurd rfl (hno rd a x).2.1
    case csrrc rd a x => exact absurd rfl (hno rd a x).2.2.1
    case csrrwi rd a x => exact absurd rfl (hno rd a x).2.2.2.1
    case csrrsi rd a x => exact absurd rfl (hno rd a x).2.2.2.2.1
    case csrrci rd a x => exact absurd rfl (hno rd a x).2.2.2.2.2
    all_goals rfl
  have shape := ExecShape.of_exec h
  rw [hcsr] at shape
  obtain ⟨_, hshared, k⟩ := shape.keepsConfig
  exact ⟨k.mtvec, k.mie, k.mscratch, hshared, k.trig, k.tim0, k.tim1, k.selectors, k.inhibit⟩

end Sys2Proof.Machine
end

section
/-! PROOFS. Jumps and the compressed computations: the immediates of the compressed formats as numbers, and the shapes of
instruction they are read by. -/

namespace Sys2Proof.Machine

/-! ## Immediates and registers of the compressed formats -/

/-- A field of a three-bit register names `x8` and up (R370). -/
theorem cReg_eq_creg (r : CReg) : cReg r = creg r := by
  apply BitVec.eq_of_toNat_eq
  have hlt := r.isLt
  simp only [cReg, creg, BitVec.toNat_append, BitVec.toNat_ofNat]
  rw [← Nat.shiftLeft_add_eq_or_of_lt hlt]
  omega

/-- Zero bits below a field multiply it, and widening keeps the number. -/
theorem setWidth_append_zero (w n : Nat) (imm : BitVec w) :
    (imm ++ 0#n).setWidth 32 = BitVec.ofNat 32 (2 ^ n * imm.toNat) := by
  apply BitVec.eq_of_toNat_eq
  simp [BitVec.toNat_append, Nat.shiftLeft_eq, Nat.mul_comm]

/-- Zero bits below a field multiply it, and sign extension keeps the signed number. -/
theorem signExtend_append_zero (w n : Nat) (imm : BitVec w) :
    (imm ++ 0#n).signExtend 32 = BitVec.ofInt 32 (2 ^ n * imm.toInt) := by
  simp only [BitVec.signExtend, BitVec.toInt_append_zero]

theorem jumpOffset_eq_ofInt (imm : BitVec 20) : jumpOffset imm = BitVec.ofInt 32 (2 * imm.toInt) :=
  signExtend_append_zero 20 1 imm

theorem cJumpOffset_eq_ofInt (imm : BitVec 11) : cJumpOffset imm = BitVec.ofInt 32 (2 * imm.toInt) :=
  signExtend_append_zero 11 1 imm

theorem cBranchOffset_eq_ofInt (imm : BitVec 8) : cBranchOffset imm = BitVec.ofInt 32 (2 * imm.toInt) :=
  signExtend_append_zero 8 1 imm

theorem cLuiImm_eq_ofInt (imm : BitVec 6) : cLuiImm imm = BitVec.ofInt 32 (2 ^ 12 * imm.toInt) :=
  signExtend_append_zero 6 12 imm

theorem cAddi16spImm_eq_ofInt (imm : BitVec 6) : cAddi16spImm imm = BitVec.ofInt 32 (16 * imm.toInt) :=
  signExtend_append_zero 6 4 imm

theorem cAddi4spnImm_eq_ofNat (imm : BitVec 8) : cAddi4spnImm imm = BitVec.ofNat 32 (4 * imm.toNat) :=
  setWidth_append_zero 8 2 imm

theorem cWordOffset_eq_ofNat (imm : BitVec 5) : cWordOffset imm = BitVec.ofNat 32 (4 * imm.toNat) :=
  setWidth_append_zero 5 2 imm

theorem cStackOffset_eq_ofNat (imm : BitVec 6) : cStackOffset imm = BitVec.ofNat 32 (4 * imm.toNat) :=
  setWidth_append_zero 6 2 imm

/-- A sum with a number below the sign is the sum of the signed values. -/
theorem add_ofInt_eq_ofInt (a : Word) (x : Int) : a + BitVec.ofInt 32 x = BitVec.ofInt 32 (a.toInt + x) := by
  rw [BitVec.ofInt_add, BitVec.ofInt_toInt]

/-- Clearing bit 0 rounds down to an even number. -/
theorem and_even_eq_ofNat (a : Word) : a &&& 0xFFFFFFFE = BitVec.ofNat 32 (a.toNat / 2 * 2) := by
  have hmask : ∀ i < 32, (0xFFFFFFFE : Word).getLsbD i = decide (i ≠ 0) := by decide
  have hshift : a &&& (0xFFFFFFFE : Word) = a >>> 1 <<< 1 := by
    refine BitVec.eq_of_getLsbD_eq fun i hi => ?_
    rw [BitVec.getLsbD_and, hmask i hi]
    grind
  rw [hshift, shiftLeft_eq_ofNat, BitVec.toNat_ushiftRight, Nat.shiftRight_eq_div_pow, pow_one]

/-! ## Shapes of instruction -/

/-- An instruction that writes back a value equal to the stated one computes it. -/
theorem computesAlways_of_value {i : Instr} {len : Nat} {evs : List Nat} {rd : RegIdx} {f : State → Word}
    (g : State → Word) (hvalue : ∀ s, g s = f s)
    (hexec : ∀ s, exec i s = .next (s.writeBack len evs rd (g s)) := by intros; rfl) : ComputesAlways i len rd f :=
  computesAlways_of_writeBack fun s => by rw [hexec, hvalue]

/-- An instruction that only goes on computes nothing, into `x0`. -/
theorem State.retire_computes_x0 (s : State) (len : Nat) (evs : List Nat) (v : Word) :
    Computes s (s.retire len evs) len 0 v := by
  obtain ⟨hregs, hpc, hcount, hmem, hrest⟩ := s.retire_goes len evs
  refine ⟨fun r => ?_, hpc, hcount, hmem, hrest⟩
  by_cases hr : r = 0
  · subst hr
    rfl
  · rw [if_neg hr, if_neg hr, hregs r]

/-- Settles O8: a jump links, to the targets of R403 and R404. -/
theorem jumps : Obligations.Jumps := by
  unfold Obligations.Jumps
  intro s rd rs1 off imm
  rw [← jumpOffset_eq_ofInt, ← and_even_eq_ofNat]
  exact ⟨⟨_, rfl, s.jump_links 4 rd _⟩, ⟨_, rfl, s.jump_links 4 rd _⟩⟩

/-- Settles O22: each instruction writes back its operation's value, in the arithmetic of the lemmas above. -/
theorem compressedComputations : Obligations.CompressedComputations := by
  unfold Obligations.CompressedComputations
  intro rd rs2 r q i6 i8 n
  simp only [← cReg_eq_creg]
  refine ⟨?cAddi4spn, ?cNop, ?cAddi, ?cLi, ?cAddi16sp, ?cLui, ?cSrli, ?cSrai, ?cAndi, ?cSlli, ?cSub, ?cXor, ?cOr, ?cAnd,
    ?cMv, ?cAdd⟩
  case cAddi4spn =>
    exact computesAlways_of_value (fun s => s.reg sp + cAddi4spnImm i8) fun s => by rw [cAddi4spnImm_eq_ofNat]; rfl
  case cNop => exact fun s => ⟨_, rfl, s.retire_computes_x0 2 _ 0⟩
  case cAddi => exact computesAlways_of_value (fun s => s.reg rd + sext6 i6) fun s => add_ofInt_eq_ofInt _ _
  case cLi => exact computesAlways_of_value (fun _ => sext6 i6) fun _ => rfl
  case cAddi16sp =>
    exact computesAlways_of_value (fun s => s.reg sp + cAddi16spImm i6) fun s => by
      rw [cAddi16spImm_eq_ofInt, add_ofInt_eq_ofInt]; rfl
  case cLui => exact computesAlways_of_value (fun _ => cLuiImm i6) fun _ => cLuiImm_eq_ofInt i6
  case cSrli => exact computesAlways_of_value (fun s => s.reg (cReg r) >>> n.toNat) fun s => ushiftRight_eq_ofNat _ _
  case cSrai =>
    exact computesAlways_of_value (fun s => (s.reg (cReg r)).sshiftRight n.toNat) fun s => sshiftRight_eq_ofInt _ _
  case cAndi => exact computesAlways_of_value (fun s => s.reg (cReg r) &&& sext6 i6) fun _ => rfl
  case cSlli => exact computesAlways_of_value (fun s => s.reg rd <<< n.toNat) fun s => shiftLeft_eq_ofNat _ _
  case cSub => exact computesAlways_of_value (fun s => s.reg (cReg r) - s.reg (cReg q)) fun s => sub_eq_ofInt _ _
  case cXor => exact computesAlways_of_writeBack fun _ => rfl
  case cOr => exact computesAlways_of_writeBack fun _ => rfl
  case cAnd => exact computesAlways_of_writeBack fun _ => rfl
  case cMv => exact computesAlways_of_writeBack fun _ => rfl
  case cAdd => exact computesAlways_of_value (fun s => s.reg rd + s.reg rs2) fun s => add_eq_ofNat _ _

/-- Settles O23: the jumps link or only go on, and the branches go where the comparison says. -/
theorem compressedControlFlow : Obligations.CompressedControlFlow := by
  unfold Obligations.CompressedControlFlow
  intro s rs1 r off b
  rw [← cJumpOffset_eq_ofInt, ← cBranchOffset_eq_ofInt, ← and_even_eq_ofNat, ← cReg_eq_creg]
  refine ⟨⟨_, rfl, s.jump_links 2 ra _⟩, ⟨_, rfl, s.jump_links 2 ra _⟩, ⟨_, rfl, s.retireTo_goes _ 2 _⟩,
    ⟨_, rfl, s.retireTo_goes _ 2 _⟩, ?beqz, ?bnez⟩
  case beqz => exact ⟨_, rfl, by simpa using s.branch_goes 2 (s.reg (cReg r) == 0) (cBranchOffset b)⟩
  case bnez => exact ⟨_, rfl, by simpa using s.branch_goes 2 (s.reg (cReg r) != 0) (cBranchOffset b)⟩

/-- Settles O1: each word is a fixed one, so the decoder is evaluated. -/
theorem decodeSampleWords : Obligations.DecodeSampleWords := by
  unfold Obligations.DecodeSampleWords
  exact ⟨rfl, rfl, rfl, rfl, rfl, rfl, rfl, rfl, rfl, rfl, rfl, rfl, rfl, rfl⟩

end Sys2Proof.Machine
end

section
/-! PROOFS. The bit-manipulation instructions of 46: compress and decompress by the count of 1 bits below a bit, the
butterflies as maps of bit numbers. -/

namespace Sys2Proof.Machine

/-! ## Compress and decompress (R601, R602) -/

/-- One more 1 bit is counted from a 1 bit of the mask on. -/
theorem countOnes_lt_of_getLsbD {m : Word} {p q : Nat} (hpq : p < q) (hp : m.getLsbD p = true) :
    countOnes m p < countOnes m q := by
  induction q with
  | zero => omega
  | succ q ih =>
    rcases Nat.lt_succ_iff_lt_or_eq.mp hpq with hlt | rfl
    · have hstep := ih hlt
      simp only [countOnes]
      omega
    · simp [countOnes, hp]

theorem countOnes_le (v : Word) (n : Nat) : countOnes v n ≤ n := by
  rw [countOnes_eq_length_filter]
  simpa using List.length_filter_le (fun i => v.getLsbD i) (List.range n)

/-- The number of 1 bits below a 1 bit tells which one it is. -/
theorem eq_of_countOnes_eq {m : Word} {p q : Nat} (hp : m.getLsbD p = true) (hq : m.getLsbD q = true)
    (h : countOnes m p = countOnes m q) : p = q := by
  rcases Nat.lt_trichotomy p q with hlt | heq | hgt
  · exact absurd h (countOnes_lt_of_getLsbD hlt hp).ne
  · exact heq
  · exact absurd h.symm (countOnes_lt_of_getLsbD hgt hq).ne

theorem getLsbD_ite_bitMask (c : Bool) (n : Nat) {i : Nat} (hi : i < 32) :
    (if c then bitMask n else 0).getLsbD i = (c && i == n) := by
  cases c with
  | false => simp
  | true => simpa using getLsbD_bitMask n hi

/-- A bit of the compressed word is the bit under the 1 bit of the mask that has that many 1 bits below it. -/
theorem getLsbD_compressFrom (v m : Word) (i n : Nat) {k : Nat} (hk : k < 32) :
    (compressFrom v m i (countOnes m i) n).getLsbD k = true ↔
      ∃ q, i ≤ q ∧ q < i + n ∧ m.getLsbD q = true ∧ v.getLsbD q = true ∧ countOnes m q = k := by
  induction n generalizing i with
  | zero =>
    simp only [compressFrom, BitVec.ofNat_eq_ofNat, BitVec.getLsbD_zero, Bool.false_eq_true, false_iff]
    rintro ⟨q, hlo, hhi, -⟩
    omega
  | succ n ih =>
    have hnext := ih (i + 1)
    by_cases hm : m.getLsbD i = true
    · rw [show countOnes m (i + 1) = countOnes m i + 1 by simp [countOnes, hm]] at hnext
      rw [compressFrom, if_pos hm, BitVec.getLsbD_or, Bool.or_eq_true, getLsbD_ite_bitMask _ _ hk, hnext,
        Bool.and_eq_true, beq_iff_eq]
      constructor
      · rintro (⟨hv, rfl⟩ | ⟨q, hlo, hhi, hq⟩)
        · exact ⟨i, le_rfl, by omega, hm, hv, rfl⟩
        · exact ⟨q, by omega, by omega, hq⟩
      · rintro ⟨q, hlo, hhi, hmq, hvq, hcount⟩
        rcases hlo.eq_or_lt with rfl | hlt
        · exact .inl ⟨hvq, hcount.symm⟩
        · exact .inr ⟨q, hlt, by omega, hmq, hvq, hcount⟩
    · rw [show countOnes m (i + 1) = countOnes m i by simp [countOnes, hm]] at hnext
      rw [compressFrom, if_neg hm, hnext]
      constructor
      · rintro ⟨q, hlo, hhi, hq⟩
        exact ⟨q, by omega, by omega, hq⟩
      · rintro ⟨q, hlo, hhi, hmq, hq⟩
        have hne : i ≠ q := fun e => hm (e ▸ hmq)
        exact ⟨q, by omega, by omega, hmq, hq⟩

/-- A bit of the decompressed word is 0 outside the mask, and inside it the bit numbered by the 1 bits of the mask below. -/
theorem getLsbD_decompressFrom (v m : Word) (i n : Nat) {k : Nat} (hk : k < 32) :
    (decompressFrom v m i (countOnes m i) n).getLsbD k =
      (decide (i ≤ k ∧ k < i + n) && (m.getLsbD k && v.getLsbD (countOnes m k))) := by
  induction n generalizing i with
  | zero =>
    have hnone : ¬(i ≤ k ∧ k < i + 0) := by omega
    rw [decide_eq_false hnone]
    simp [decompressFrom]
  | succ n ih =>
    have hnext := ih (i + 1)
    rcases eq_or_ne k i with rfl | hne
    · have hout : ¬(k + 1 ≤ k ∧ k < k + 1 + n) := by omega
      have hin : k ≤ k ∧ k < k + (n + 1) := by omega
      rw [decide_eq_false hout] at hnext
      rw [decide_eq_true hin]
      by_cases hm : m.getLsbD k = true
      · rw [show countOnes m (k + 1) = countOnes m k + 1 by simp [countOnes, hm]] at hnext
        rw [decompressFrom, if_pos hm, BitVec.getLsbD_or, getLsbD_ite_bitMask _ _ hk, hnext, hm]
        simp
      · rw [show countOnes m (k + 1) = countOnes m k by simp [countOnes, hm]] at hnext
        rw [decompressFrom, if_neg hm, hnext]
        simp [hm]
    · have hrange : (i ≤ k ∧ k < i + (n + 1)) ↔ (i + 1 ≤ k ∧ k < i + 1 + n) := by omega
      rw [decide_eq_decide.mpr hrange, ← hnext]
      by_cases hm : m.getLsbD i = true
      · rw [show countOnes m (i + 1) = countOnes m i + 1 by simp [countOnes, hm], decompressFrom, if_pos hm,
          BitVec.getLsbD_or, getLsbD_ite_bitMask _ _ hk, beq_false_of_ne hne]
        simp
      · rw [show countOnes m (i + 1) = countOnes m i by simp [countOnes, hm], decompressFrom, if_neg hm]

/-! ## Packing and placing (R603 to R606) -/

/-- Two fields side by side are a number with the upper one above the lower one. -/
theorem append_eq_ofNat {m n : Nat} (x : BitVec m) (y : BitVec n) (w : Nat) :
    (x ++ y).setWidth w = BitVec.ofNat w (x.toNat * 2 ^ n + y.toNat) := by
  apply BitVec.eq_of_toNat_eq
  rw [BitVec.toNat_setWidth, BitVec.toNat_append, BitVec.toNat_ofNat, ← Nat.shiftLeft_add_eq_or_of_lt y.isLt,
    Nat.shiftLeft_eq]

theorem getLsbD_fieldMask {len : Nat} (hlen : len < 32) (off : Nat) {i : Nat} (hi : i < 32) :
    ((bitMask len - 1) <<< off).getLsbD i = decide (off ≤ i ∧ i < off + len) := by
  rw [BitVec.getLsbD_shiftLeft, BitVec.getLsbD, toNat_bitMask_sub_one hlen, Nat.testBit_two_pow_sub_one, Bool.eq_iff_iff]
  simp only [Bool.and_eq_true, Bool.not_eq_true', decide_eq_true_eq, decide_eq_false_iff_not]
  omega

/-- The length and the offset of `bfp`'s field, as bits 27 to 24 and 20 to 16 of `x[rs2]` (R605). -/
theorem getLsbD_bitFieldPlace (a b : Word) {i : Nat} (hi : i < 32) :
    let off := b.toNat / 2 ^ 16 % 32
    let len := if b.toNat / 2 ^ 24 % 16 = 0 then 16 else b.toNat / 2 ^ 24 % 16
    (bitFieldPlace a b).getLsbD i = if off ≤ i ∧ i < off + len then b.getLsbD (i - off) else a.getLsbD i := by
  intro off len
  have hoff : (b.extractLsb' 16 5).toNat = off := by simp [off, Nat.shiftRight_eq_div_pow]
  have hfield : (b.extractLsb' 24 4).toNat = b.toNat / 2 ^ 24 % 16 := by simp [Nat.shiftRight_eq_div_pow]
  have hlen : len < 32 := by
    have hmod := Nat.mod_lt (b.toNat / 2 ^ 24) (show 16 > 0 by decide)
    grind
  simp only [bitFieldPlace, hoff, hfield]
  rw [BitVec.getLsbD_or, BitVec.getLsbD_and, BitVec.getLsbD_and, BitVec.getLsbD_not, BitVec.getLsbD_shiftLeft,
    getLsbD_fieldMask hlen off hi]
  by_cases hin : off ≤ i ∧ i < off + len
  · simp [hin, hi]
  · simp [hin, hi]

/-- Settles O17: compress and decompress by the count of 1 bits below, the packs as numbers, `bfp` bit by bit. -/
theorem compressPackAndPlace : Obligations.CompressPackAndPlace := by
  unfold Obligations.CompressPackAndPlace
  simp only [← countOnes_eq_length_filter]
  refine ⟨?bcompress, ?bdecompress, ?pack, ?packh, ?packu, ?bfp⟩
  case bcompress =>
    refine isRegRel_of_opReg (fun a m => compressFrom a m 0 0 32) fun a m => ?_
    have hbit {k : Nat} (hk : k < 32) : (compressFrom a m 0 0 32).getLsbD k = true ↔
        ∃ q, 0 ≤ q ∧ q < 0 + 32 ∧ m.getLsbD q = true ∧ a.getLsbD q = true ∧ countOnes m q = k :=
      getLsbD_compressFrom a m 0 32 hk
    refine ⟨fun i hi hm => ?_, fun k hk => ?_⟩
    · have hlt : countOnes m i < 32 := lt_of_lt_of_le (countOnes_lt_of_getLsbD hi hm) (countOnes_le m 32)
      rw [Bool.eq_iff_iff, hbit hlt]
      constructor
      · rintro ⟨q, -, -, hmq, haq, hcount⟩
        exact eq_of_countOnes_eq hmq hm hcount ▸ haq
      · exact fun ha => ⟨i, Nat.zero_le i, by omega, hm, ha, rfl⟩
    · rcases Nat.lt_or_ge k 32 with hlt | hge
      · rw [← Bool.not_eq_true, hbit hlt]
        rintro ⟨q, -, hq, hmq, -, rfl⟩
        exact absurd (countOnes_lt_of_getLsbD (by omega) hmq) (Nat.not_lt.mpr hk)
      · exact BitVec.getLsbD_of_ge _ _ hge
  case bdecompress =>
    refine isRegRel_of_opReg (fun a m => decompressFrom a m 0 0 32) fun a m i hi => ?_
    have hbit : (decompressFrom a m 0 0 32).getLsbD i = (decide (0 ≤ i ∧ i < 0 + 32) && _) :=
      getLsbD_decompressFrom a m 0 32 hi
    simpa [hi] using hbit
  case pack =>
    refine isRegOp_of_opReg (fun a b => b.extractLsb' 0 16 ++ a.extractLsb' 0 16) fun a b => ?_
    simpa [Nat.shiftRight_eq_div_pow] using append_eq_ofNat (b.extractLsb' 0 16) (a.extractLsb' 0 16) 32
  case packh =>
    refine isRegOp_of_opReg (fun a b => (b.extractLsb' 0 8 ++ a.extractLsb' 0 8).setWidth 32) fun a b => ?_
    simpa using append_eq_ofNat (b.extractLsb' 0 8) (a.extractLsb' 0 8) 32
  case packu =>
    refine isRegOp_of_opReg (fun a b => b.extractLsb' 16 16 ++ a.extractLsb' 16 16) fun a b => ?_
    have hhigh (x : Word) : (x.extractLsb' 16 16).toNat = x.toNat / 2 ^ 16 := by
      have hlt := x.isLt
      rw [BitVec.extractLsb'_toNat, Nat.shiftRight_eq_div_pow]
      omega
    rw [← hhigh a, ← hhigh b]
    exact append_eq_ofNat (b.extractLsb' 16 16) (a.extractLsb' 16 16) 32
  case bfp => exact isRegRel_of_opReg bitFieldPlace fun a b i hi => getLsbD_bitFieldPlace a b hi

/-! ## Butterflies (R607 to R614) -/

/-- The numbers below 32 with bit `k` set, and what taking or adding that bit makes of them. -/
theorem xor_two_pow_of_lt : ∀ k < 5, ∀ i < 32, if i.testBit k
    then 2 ^ k ≤ i ∧ i ^^^ 2 ^ k = i - 2 ^ k ∧ (i - 2 ^ k).testBit k = false ∧ (32 ≤ i + 2 ^ k ∨ (i + 2 ^ k).testBit k = false)
    else i + 2 ^ k < 32 ∧ i ^^^ 2 ^ k = i + 2 ^ k ∧ (i + 2 ^ k).testBit k = true ∧
      (i < 2 ^ k ∨ (i - 2 ^ k).testBit k = true) := by decide

/-- Swapping neighbouring blocks of `2^k` bits flips bit `k` of the bit numbers, where the mask marks the lower blocks. -/
theorem getLsbD_swapBlocks (v mask : Word) {k : Nat} (hk : k < 5)
    (hmask : ∀ i < 32, mask.getLsbD i = !i.testBit k) {i : Nat} (hi : i < 32) :
    (swapBlocks v mask (2 ^ k)).getLsbD i = v.getLsbD (i ^^^ 2 ^ k) := by
  have hnum := xor_two_pow_of_lt k hk i hi
  rw [swapBlocks, BitVec.getLsbD_or, BitVec.getLsbD_shiftLeft, BitVec.getLsbD_ushiftRight, BitVec.getLsbD_and,
    BitVec.getLsbD_and, BitVec.getLsbD_not, Nat.add_comm (2 ^ k) i]
  by_cases hbit : i.testBit k = true
  · rw [if_pos hbit] at hnum
    obtain ⟨hle, hxor, hlow, hhigh⟩ := hnum
    rw [hxor, hmask (i - 2 ^ k) ((Nat.sub_le _ _).trans_lt hi), hlow]
    rcases hhigh with hout | hhigh
    · simp [hi, hle, hout]
    · by_cases hin : i + 2 ^ k < 32
      · simp [hi, hle, hmask _ hin, hhigh]
      · simp [hi, hle, hin]
  · rw [if_neg hbit] at hnum
    obtain ⟨hlt, hxor, hhigh, hlow⟩ := hnum
    rw [hxor, hmask _ hlt, hhigh]
    rcases hlow with hout | hlow
    · simp [hlt, hout]
    · simp [hlt, hmask (i - 2 ^ k) ((Nat.sub_le _ _).trans_lt hi), hlow]

/-- Stage `k` of the amount `n` swaps bit `k` of the bit numbers (R607). -/
theorem getLsbD_grevStage (on : Bool) (v mask : Word) {k : Nat} (hk : k < 5)
    (hmask : ∀ i < 32, mask.getLsbD i = !i.testBit k) {i : Nat} (hi : i < 32) :
    (grevStage on mask (2 ^ k) v).getLsbD i = v.getLsbD (i ^^^ if on then 2 ^ k else 0) := by
  cases on with
  | false => simp [grevStage]
  | true => simpa [grevStage] using getLsbD_swapBlocks v mask hk hmask hi

/-- The bits of an amount, each in its place, are the amount. -/
theorem toNat_eq_xor_bits (k : BitVec 5) :
    (if k.getLsbD 4 then 16 else 0) ^^^ ((if k.getLsbD 3 then 8 else 0) ^^^ ((if k.getLsbD 2 then 4 else 0) ^^^
      ((if k.getLsbD 1 then 2 else 0) ^^^ (if k.getLsbD 0 then 1 else 0)))) = k.toNat := by
  revert k
  decide

theorem xor_ite_lt_32 (on : Bool) {k i : Nat} (hk : k < 5) (hi : i < 32) : (i ^^^ if on then 2 ^ k else 0) < 32 := by
  refine Nat.xor_lt_two_pow (n := 5) hi ?_
  split
  · exact Nat.pow_lt_pow_right (by decide) hk
  · decide

/-- The reversed word: the amount is taken from the bit numbers by exclusive or (R607). -/
theorem getLsbD_grevWord (v : Word) (k : BitVec 5) {i : Nat} (hi : i < 32) :
    (grevWord v k).getLsbD i = v.getLsbD (i ^^^ k.toNat) := by
  have h4 := xor_ite_lt_32 (k.getLsbD 4) (k := 4) (by decide) hi
  have h3 := xor_ite_lt_32 (k.getLsbD 3) (k := 3) (by decide) h4
  have h2 := xor_ite_lt_32 (k.getLsbD 2) (k := 2) (by decide) h3
  have h1 := xor_ite_lt_32 (k.getLsbD 1) (k := 1) (by decide) h2
  have hstages : (grevWord v k).getLsbD i = v.getLsbD (((((i ^^^ _) ^^^ _) ^^^ _) ^^^ _) ^^^ _) :=
    (getLsbD_grevStage _ _ _ (k := 4) (by decide) (by decide) hi).trans <|
    (getLsbD_grevStage _ _ _ (k := 3) (by decide) (by decide) h4).trans <|
    (getLsbD_grevStage _ _ _ (k := 2) (by decide) (by decide) h3).trans <|
    (getLsbD_grevStage _ _ _ (k := 1) (by decide) (by decide) h2).trans <|
    getLsbD_grevStage _ _ _ (k := 0) (by decide) (by decide) h1
  rw [hstages]
  simp only [Nat.xor_assoc]
  exact congrArg (fun n => v.getLsbD (i ^^^ n)) (toNat_eq_xor_bits k)

/-- The word `w` combines the bits of `v` whose numbers differ from a bit's own by a part of `n` (R609). -/
def Combines (v : Word) (n : Nat) (w : Word) : Prop :=
  ∀ i < 32, w.getLsbD i = true ↔ ∃ j < 32, j &&& n = j ∧ v.getLsbD (i ^^^ j) = true

theorem combines_zero (v : Word) : Combines v 0 v := by
  intro i hi
  constructor
  · exact fun h => ⟨0, by decide, rfl, by simpa using h⟩
  · rintro ⟨j, -, hj, hv⟩
    rw [Nat.and_zero] at hj
    subst hj
    simpa using hv

theorem and_eq_left_iff_testBit (j n : Nat) : j &&& n = j ↔ ∀ b, j.testBit b = true → n.testBit b = true := by
  constructor
  · intro h b hb
    rw [← h, Nat.testBit_and, Bool.and_eq_true] at hb
    exact hb.2
  · intro h
    refine Nat.eq_of_testBit_eq fun b => ?_
    rw [Nat.testBit_and, Bool.and_eq_left_iff_imp]
    exact h b

/-- A part of `n` with bit `k` more is a part of `n`, or one with bit `k` added. -/
theorem part_of_xor_two_pow {n k : Nat} (hn : n < 2 ^ k) (j : Nat) :
    j &&& (n ^^^ 2 ^ k) = j ↔ j &&& n = j ∨ ((j ^^^ 2 ^ k) &&& n = j ^^^ 2 ^ k) := by
  have hnk : n.testBit k = false := Nat.testBit_lt_two_pow hn
  simp only [and_eq_left_iff_testBit, Nat.testBit_xor, Nat.testBit_two_pow]
  constructor
  · intro h
    by_cases hjk : j.testBit k = true
    · right
      intro b
      have hb := h b
      grind
    · left
      intro b
      have hb := h b
      grind
  · rintro (h | h) <;> intro b <;> have hb := h b <;> grind

/-- Stage `k` of the amount adds bit `k` to it (R609). -/
theorem Combines.gorcStage {v w : Word} {n : Nat} (h : Combines v n w) (on : Bool) (mask : Word) {k : Nat} (hk : k < 5)
    (hmask : ∀ i < 32, mask.getLsbD i = !i.testBit k) (hn : n < 2 ^ k) :
    Combines v (n ^^^ if on then 2 ^ k else 0) (gorcStage on mask (2 ^ k) w) := by
  cases on with
  | false => simpa [Machine.gorcStage] using h
  | true =>
    intro i hi
    have hpow : 2 ^ k < 2 ^ 5 := Nat.pow_lt_pow_right (by decide) hk
    have hflip : i ^^^ 2 ^ k < 32 := Nat.xor_lt_two_pow (n := 5) hi hpow
    simp only [Machine.gorcStage, if_true]
    rw [BitVec.getLsbD_or, Bool.or_eq_true, getLsbD_swapBlocks w mask hk hmask hi, h i hi, h _ hflip]
    simp only [part_of_xor_two_pow hn]
    constructor
    · rintro (⟨j, hj, hpart, hv⟩ | ⟨j, hj, hpart, hv⟩)
      · exact ⟨j, hj, .inl hpart, hv⟩
      · refine ⟨j ^^^ 2 ^ k, Nat.xor_lt_two_pow (n := 5) hj hpow, .inr ?_, ?_⟩
        · simpa [Nat.xor_assoc] using hpart
        · rwa [Nat.xor_comm j, ← Nat.xor_assoc]
    · rintro ⟨j, hj, hpart | hpart, hv⟩
      · exact .inl ⟨j, hj, hpart, hv⟩
      · refine .inr ⟨j ^^^ 2 ^ k, Nat.xor_lt_two_pow (n := 5) hj hpow, hpart, ?_⟩
        rw [Nat.xor_comm j, ← Nat.xor_assoc]
        simpa [Nat.xor_assoc] using hv

/-- The combined word (R609). -/
theorem combines_gorcWord (v : Word) (k : BitVec 5) : Combines v k.toNat (gorcWord v k) := by
  have h0 := (combines_zero v).gorcStage (k.getLsbD 0) 0x55555555 (k := 0) (by decide) (by decide) (by decide)
  have h1 := h0.gorcStage (k.getLsbD 1) 0x33333333 (k := 1) (by decide) (by decide) (by split <;> decide)
  have h2 := h1.gorcStage (k.getLsbD 2) 0x0F0F0F0F (k := 2) (by decide) (by decide) (by split <;> split <;> decide)
  have h3 := h2.gorcStage (k.getLsbD 3) 0x00FF00FF (k := 3) (by decide) (by decide)
    (by split <;> split <;> split <;> decide)
  have h4 := h3.gorcStage (k.getLsbD 4) 0x0000FFFF (k := 4) (by decide) (by decide)
    (by split <;> split <;> split <;> split <;> decide)
  have hsum : k.toNat = _ := (toNat_eq_xor_bits k).symm
  rw [hsum]
  simp only [Nat.zero_xor, Nat.reducePow] at h4
  convert h4 using 1
  · ac_rfl
  · rfl

theorem Combines.any_range {v w : Word} {n : Nat} (h : Combines v n w) {i : Nat} (hi : i < 32) :
    w.getLsbD i = (List.range 32).any fun j => decide (j &&& n = j) && v.getLsbD (i ^^^ j) := by
  rw [Bool.eq_iff_iff, h i hi]
  simp [List.any_eq_true]

/-- The low five bits of a word, as a number. -/
theorem toNat_low (b : Word) (n : Nat) : (b.extractLsb' 0 n).toNat = b.toNat % 2 ^ n := by
  rw [BitVec.extractLsb'_toNat, Nat.shiftRight_zero]

/-- A four-bit amount below a 0 bit, in the place of `rs2`. -/
theorem word32_shift4 (f7 : BitVec 7) (shamt : BitVec 4) (rs1 : RegIdx) (f3 : BitVec 3) (rd : RegIdx) (op : BitVec 7) :
    word32 f7 (0#1 ++ shamt) rs1 f3 rd op = f7 ++ 0#1 ++ shamt ++ rs1 ++ f3 ++ rd ++ op := by
  have hfields : f7 ++ 0#1 ++ shamt = f7 ++ (0#1 ++ shamt) := BitVec.append_assoc
  rw [word32, hfields]

section amounts
variable {f3 : BitVec 3} {evs : List Nat}

/-- Instructions with a five-bit amount that run as `opImm`. -/
theorem isShiftRel_of_amount {i : RegIdx → RegIdx → BitVec 5 → Instr} {f7 : BitVec 7} {R : Word → Nat → Word → Prop}
    (g : Word → BitVec 5 → Word) (hvalue : ∀ a n, R a n.toNat (g a n))
    (hcode : ∀ rd rs1 shamt, encode (i rd rs1 shamt) = .word (word32 f7 shamt rs1 f3 rd 0b0010011) := by intros; rfl)
    (hexec : ∀ rd rs1 shamt s, exec (i rd rs1 shamt) s = .next (s.opImm 4 evs rd rs1 fun a => g a shamt) := by
      intros; rfl) :
    IsShiftRel i f7 f3 R :=
  fun rd rs1 shamt => ⟨hcode rd rs1 shamt, fun s =>
    ⟨_, _, hexec rd rs1 shamt s, s.writeBack_computes 4 evs rd _, hvalue (s.reg rs1) shamt⟩⟩

/-- Instructions with a four-bit amount that run as `opImm`. -/
theorem isShift4Rel_of_amount {i : RegIdx → RegIdx → BitVec 4 → Instr} {f7 : BitVec 7} {R : Word → Nat → Word → Prop}
    (g : Word → BitVec 4 → Word) (hvalue : ∀ a n, R a n.toNat (g a n))
    (hcode : ∀ rd rs1 shamt, encode (i rd rs1 shamt) = .word (word32 f7 (0#1 ++ shamt) rs1 f3 rd 0b0010011) := by
      intros; rfl)
    (hexec : ∀ rd rs1 shamt s, exec (i rd rs1 shamt) s = .next (s.opImm 4 evs rd rs1 fun a => g a shamt) := by
      intros; rfl) :
    IsShift4Rel i f7 f3 R :=
  fun rd rs1 shamt => ⟨(hcode rd rs1 shamt).trans (congrArg Code.word (word32_shift4 f7 shamt rs1 f3 rd _)), fun s =>
    ⟨_, _, hexec rd rs1 shamt s, s.writeBack_computes 4 evs rd _, hvalue (s.reg rs1) shamt⟩⟩

end amounts

/-- Settles O18: the reversed and the combined word by the bits of the amount. -/
theorem generalizedReverse : Obligations.GeneralizedReverse := by
  unfold Obligations.GeneralizedReverse
  refine ⟨?grev, ?grevi, ?gorc, ?gorci⟩
  case grev =>
    refine isRegRel_of_opReg (fun a b => grevWord a (b.extractLsb' 0 5)) fun a b i hi => ?_
    rw [getLsbD_grevWord a _ hi, toNat_low]
    rfl
  case grevi => exact isShiftRel_of_amount grevWord fun a n i hi => getLsbD_grevWord a n hi
  case gorc =>
    refine isRegRel_of_opReg (fun a b => gorcWord a (b.extractLsb' 0 5)) fun a b i hi => ?_
    rw [(combines_gorcWord a _).any_range hi, toNat_low]
    rfl
  case gorci => exact isShiftRel_of_amount gorcWord fun a n i hi => (combines_gorcWord a n).any_range hi

/-- Stage `k` of a shuffle exchanges bits `k` and `k + 1` of a bit number, where the amount has bit `k` (R625). -/
def swapBits (n k i : Nat) : Nat := if n.testBit k && i.testBit k != i.testBit (k + 1) then i ^^^ (3 * 2 ^ k) else i

/-- Exchanging bits `k` and `k + 1` of a number below 32. -/
theorem xor_three_two_pow_of_lt : ∀ k < 4, ∀ i < 32,
    (i.testBit (k + 1) = true → i.testBit k = false → 2 ^ k ≤ i ∧ i ^^^ (3 * 2 ^ k) = i - 2 ^ k) ∧
    (i.testBit (k + 1) = false → i.testBit k = true → i ^^^ (3 * 2 ^ k) = i + 2 ^ k) ∧ i ^^^ (3 * 2 ^ k) < 32 := by
  decide

theorem swapBits_lt {k i : Nat} (n : Nat) (hk : k < 4) (hi : i < 32) : swapBits n k i < 32 := by
  unfold swapBits
  split
  · exact (xor_three_two_pow_of_lt k hk i hi).2.2
  · exact hi

/-- One stage as a map of bit numbers, where the masks mark the numbers with bit `k + 1` only and with bit `k` only. -/
theorem getLsbD_shuffleStage (n : Nat) (v maskL maskR : Word) {k : Nat} (hk : k < 4)
    (hL : ∀ i < 32, maskL.getLsbD i = (i.testBit (k + 1) && !i.testBit k))
    (hR : ∀ i < 32, maskR.getLsbD i = (!i.testBit (k + 1) && i.testBit k)) {i : Nat} (hi : i < 32) :
    (shuffleStage (n.testBit k) maskL maskR (2 ^ k) v).getLsbD i = v.getLsbD (swapBits n k i) := by
  obtain ⟨hdown, hup, -⟩ := xor_three_two_pow_of_lt k hk i hi
  unfold shuffleStage swapBits
  cases hn : n.testBit k with
  | false => simp
  | true =>
    simp only [if_true, Bool.true_and, BitVec.getLsbD_or, BitVec.getLsbD_and, BitVec.getLsbD_not,
      BitVec.getLsbD_shiftLeft, BitVec.getLsbD_ushiftRight, hL i hi, hR i hi, hi, decide_true]
    cases hhigh : i.testBit (k + 1) <;> cases hlow : i.testBit k
    · simp
    · simp [hup hhigh hlow, Nat.add_comm]
    · obtain ⟨hle, hxor⟩ := hdown hhigh hlow
      simp [hxor, hle]
    · simp

/-- The shuffled word: the stages from 3 down to 0 (R611). -/
theorem getLsbD_shuffleWord (v : Word) (k : BitVec 4) {i : Nat} (hi : i < 32) :
    (shuffleWord v k).getLsbD i =
      v.getLsbD (swapBits k.toNat 3 (swapBits k.toNat 2 (swapBits k.toNat 1 (swapBits k.toNat 0 i)))) := by
  have h0 := swapBits_lt k.toNat (k := 0) (by decide) hi
  have h1 := swapBits_lt k.toNat (k := 1) (by decide) h0
  have h2 := swapBits_lt k.toNat (k := 2) (by decide) h1
  exact (getLsbD_shuffleStage k.toNat _ _ _ (k := 0) (by decide) (by decide) (by decide) hi).trans <|
    (getLsbD_shuffleStage k.toNat _ _ _ (k := 1) (by decide) (by decide) (by decide) h0).trans <|
    (getLsbD_shuffleStage k.toNat _ _ _ (k := 2) (by decide) (by decide) (by decide) h1).trans <|
    getLsbD_shuffleStage k.toNat _ _ _ (k := 3) (by decide) (by decide) (by decide) h2

/-- The unshuffled word: the stages from 0 up to 3 (R613). -/
theorem getLsbD_unshuffleWord (v : Word) (k : BitVec 4) {i : Nat} (hi : i < 32) :
    (unshuffleWord v k).getLsbD i =
      v.getLsbD (swapBits k.toNat 0 (swapBits k.toNat 1 (swapBits k.toNat 2 (swapBits k.toNat 3 i)))) := by
  have h3 := swapBits_lt k.toNat (k := 3) (by decide) hi
  have h2 := swapBits_lt k.toNat (k := 2) (by decide) h3
  have h1 := swapBits_lt k.toNat (k := 1) (by decide) h2
  exact (getLsbD_shuffleStage k.toNat _ _ _ (k := 3) (by decide) (by decide) (by decide) hi).trans <|
    (getLsbD_shuffleStage k.toNat _ _ _ (k := 2) (by decide) (by decide) (by decide) h3).trans <|
    (getLsbD_shuffleStage k.toNat _ _ _ (k := 1) (by decide) (by decide) (by decide) h2).trans <|
    getLsbD_shuffleStage k.toNat _ _ _ (k := 0) (by decide) (by decide) (by decide) h1

/-- Settles O19: the four stages, one after the other, as a map of bit numbers. -/
theorem generalizedShuffle : Obligations.GeneralizedShuffle := by
  unfold Obligations.GeneralizedShuffle
  refine ⟨?shfl, ?shfli, ?unshfl, ?unshfli⟩
  case shfl =>
    refine isRegRel_of_opReg (fun a b => shuffleWord a (b.extractLsb' 0 4)) fun a b i hi => ?_
    rw [getLsbD_shuffleWord a _ hi, toNat_low]
    rfl
  case shfli => exact isShift4Rel_of_amount shuffleWord fun a n i hi => getLsbD_shuffleWord a n hi
  case unshfl =>
    refine isRegRel_of_opReg (fun a b => unshuffleWord a (b.extractLsb' 0 4)) fun a b i hi => ?_
    rw [getLsbD_unshuffleWord a _ hi, toNat_low]
    rfl
  case unshfli => exact isShift4Rel_of_amount unshuffleWord fun a n i hi => getLsbD_unshuffleWord a n hi

end Sys2Proof.Machine
end

section
/-! PROOFS. The reset state, the PIC's winner and the internal timers. -/

namespace Sys2Proof.Machine

/-! ## Reset -/

/-- Hart 0 differs from a hart that is reset only in whether it runs. -/
theorem Hart.outOfReset_cases (cfg : Config) (resetRun haltReq : Bool) :
    Hart.outOfReset cfg resetRun haltReq = Hart.resetWith cfg .running ∨
      ∃ d, Hart.outOfReset cfg resetRun haltReq = { Hart.resetWith cfg .running with activity := .dbHalt, dbg := d } := by
  unfold Hart.outOfReset
  split
  · exact .inl rfl
  · exact .inr ⟨_, rfl⟩

/-- After reset the two harts are the same but for their activity and debug registers. -/
theorem State.hartAt_resetWith (cfg : Config) (h : HartId) :
    ∃ a d, (State.resetWith cfg).hartAt h = { Hart.resetWith cfg a with dbg := d } := by
  cases h with
  | t1 => exact ⟨.idle, _, rfl⟩
  | t0 =>
    rcases Hart.outOfReset_cases cfg cfg.mpcResetRun0 false with hx | ⟨d, hx⟩
    · exact ⟨.running, _, hx⟩
    · exact ⟨.dbHalt, d, hx⟩

/-- What the trap, power, timer and counter CSRs of a hart read when its registers are as reset leaves them. -/
theorem State.csrRead_of_reset {s : State} {h : HartId} {cfg : Config} {a : Activity} {d : DebugRegs}
    (e : s.hartAt h = { Hart.resetWith cfg a with dbg := d }) :
    s.csrRead h .mstatus = 0x1800 ∧ s.csrRead h .mtvec = 0 ∧ s.csrRead h .mie = 0 ∧ s.csrRead h .mepc = 0 ∧
      s.csrRead h .mpmc = 2 ∧ s.csrRead h .mitb0 = 0xFFFFFFFF ∧ s.csrRead h .mcycle = 0 ∧
      (s.hartAt h).nmi.pending = false ∧ (s.hartAt h).reservation = none ∧ (s.hartAt h).buffer = [] := by
  have hmstatus : TrapRegs.reset.mstatus = 0x1800 := by decide
  have hmpmc : (BitVec.ofBool PowerRegs.reset.haltie ++ 0#1).setWidth 32 = (2 : Word) := by decide
  simp only [State.csrRead, e]
  exact ⟨hmstatus, rfl, rfl, rfl, hmpmc, rfl, rfl, rfl, rfl, rfl⟩

/-- Settles O4: each hart is a hart that is reset, hart 0 running or halted. -/
theorem resetState : Obligations.ResetState := by
  unfold Obligations.ResetState
  intro cfg s
  obtain ⟨a, d, hzero⟩ := State.hartAt_resetWith cfg .t0
  have hpc : s.pc = cfg.rstVec ++ 0#1 := congrArg Hart.pc hzero
  have hactive : s.hart.activity = if cfg.mpcResetRun0 then .running else .dbHalt := by
    change (Hart.outOfReset cfg cfg.mpcResetRun0 false).activity = _
    cases h : cfg.mpcResetRun0 <;> rfl
  refine ⟨hpc, hactive, rfl, rfl, fun h r => ?_, fun h => ?_, rfl, rfl⟩
  · obtain ⟨a, d, hx⟩ := State.hartAt_resetWith cfg h
    have hregs : (s.hartAt h).regs = Vector.replicate 32 0 := congrArg Hart.regs hx
    simp [Hart.reg, hregs]
  · obtain ⟨a, d, hx⟩ := State.hartAt_resetWith cfg h
    exact State.csrRead_of_reset hx

/-! ## The winner of the PIC (R730, R731) -/

/-- `b` is the winner's priority and number among the sources `l`, numbered from 1. -/
structure IsWinner (dual : Bool) (h : HartId) (l : List Source) (b : BitVec 4 × Nat) : Prop where
  highest : ∀ (k : Nat) (x : Source), l[k]? = some x → x.candidate dual h = true → x.pri.toNat ≤ b.1.toNat
  first : ∀ (k : Nat) (x : Source), l[k]? = some x → x.candidate dual h = true → x.pri = b.1 → b.2 ≤ k + 1
  found : if b.1 = 0 then b.2 = 0
    else ∃ (k : Nat) (x : Source), b.2 = k + 1 ∧ l[k]? = some x ∧ x.candidate dual h = true ∧ x.pri = b.1

theorem isWinner_nil (dual : Bool) (h : HartId) : IsWinner dual h [] (0, 0) where
  highest := by simp
  first := by simp
  found := by simp

theorem Source.pri_ne_zero {x : Source} {dual : Bool} {h : HartId} (hx : x.candidate dual h = true) : x.pri ≠ 0 := by
  unfold Source.candidate at hx
  simp_all

/-- One more source: it wins if its priority is above the best so far. -/
theorem IsWinner.snoc {dual : Bool} {h : HartId} {l : List Source} {b : BitVec 4 × Nat} (w : IsWinner dual h l b)
    (x : Source) :
    IsWinner dual h (l ++ [x]) (if x.candidate dual h && b.1.ult x.pri then (x.pri, l.length + 1) else b) := by
  have hlast (k : Nat) (y : Source) : (l ++ [x])[k]? = some y ↔ l[k]? = some y ∨ k = l.length ∧ x = y := by
    rw [List.getElem?_append]
    split <;> rename_i hk
    · simp [hk.ne]
    · rw [List.getElem?_eq_none (Nat.not_lt.mp hk), List.getElem?_singleton]
      split <;> grind
  obtain ⟨hmax, hfirst, hfound⟩ := w
  by_cases hx : x.candidate dual h && b.1.ult x.pri
  · rw [if_pos hx]
    obtain ⟨hcand, hgt⟩ := Bool.and_eq_true _ _ ▸ hx
    have hgt : b.1.toNat < x.pri.toNat := BitVec.ult_iff_lt.mp hgt
    refine ⟨fun k y hy hc => ?_, fun k y hy hc he => ?_, ?_⟩
    · rcases (hlast k y).mp hy with hy | ⟨-, rfl⟩
      · exact (hmax k y hy hc).trans hgt.le
      · exact le_rfl
    · rcases (hlast k y).mp hy with hy | ⟨rfl, -⟩
      · have hle := he ▸ hmax k y hy hc
        exact absurd hle hgt.not_ge
      · exact le_rfl
    · rw [if_neg (Source.pri_ne_zero hcand)]
      exact ⟨l.length, x, rfl, (hlast _ _).mpr (.inr ⟨rfl, rfl⟩), hcand, rfl⟩
  · rw [if_neg hx]
    have hle (hc : x.candidate dual h = true) : x.pri.toNat ≤ b.1.toNat := by
      rw [hc, Bool.true_and, BitVec.ult_iff_lt, BitVec.lt_def] at hx
      exact not_lt.mp hx
    refine ⟨fun k y hy hc => ?_, fun k y hy hc he => ?_, ?_⟩
    · rcases (hlast k y).mp hy with hy | ⟨-, rfl⟩
      · exact hmax k y hy hc
      · exact hle hc
    · rcases (hlast k y).mp hy with hy | ⟨rfl, rfl⟩
      · exact hfirst k y hy hc he
      · have hne : b.1 ≠ 0 := he ▸ Source.pri_ne_zero hc
        rw [if_neg hne] at hfound
        obtain ⟨j, z, hb, hz, -⟩ := hfound
        have hlt : j < l.length := (List.getElem?_eq_some_iff.mp hz).1
        omega
    · split at hfound <;> rename_i hzero
      · rwa [if_pos hzero]
      · rw [if_neg hzero]
        obtain ⟨k, y, hk, hy, hc⟩ := hfound
        exact ⟨k, y, hk, (hlast k y).mpr (.inl hy), hc⟩

/-- The search goes on from the winner among the sources seen. -/
theorem isWinner_bestFrom (dual : Bool) (h : HartId) (rest : List Source) :
    ∀ (l : List Source) (b : BitVec 4 × Nat), IsWinner dual h l b →
      IsWinner dual h (l ++ rest) (bestFrom dual h rest (l.length + 1) b) := by
  induction rest with
  | nil =>
    intro l b w
    simpa [bestFrom] using w
  | cons x rest ih =>
    intro l b w
    have hnext := ih _ _ (w.snoc x)
    rw [List.append_assoc, List.length_append] at hnext
    exact hnext

/-- Settles O54: the search keeps the winner among the sources it has seen. -/
theorem picWinner : Obligations.PicWinner := by
  unfold Obligations.PicWinner
  intro p dual h
  have w : IsWinner dual h p.sources (p.best dual h) := isWinner_bestFrom dual h p.sources [] (0, 0) (isWinner_nil dual h)
  exact ⟨w.highest, w.first, w.found⟩

/-! ## The internal timers (R781, R782) -/

/-- One enabled cycle from a count up to the bound: the next count, and 0 after the bound. -/
theorem Timer.toNat_cnt_tick {t : Timer} (ok : Bool) (hw : t.written = none) (hle : t.cnt.toNat ≤ t.bound.toNat) :
    (t.tick true ok).cnt.toNat = (t.cnt.toNat + 1) % (t.bound.toNat + 1) := by
  have hcnt : (t.tick true ok).cnt = if t.matches then 0 else t.cnt + 1 := by simp [Timer.tick, hw]
  rw [hcnt, Timer.matches, BitVec.ule_eq_decide]
  by_cases hend : t.bound.toNat ≤ t.cnt.toNat
  · rw [if_pos (by simpa [BitVec.le_def] using hend), le_antisymm hle hend, Nat.mod_self]
    rfl
  · have hlt := t.bound.isLt
    rw [if_neg (by simpa [BitVec.le_def] using hend), Nat.mod_eq_of_lt (by omega)]
    simp only [BitVec.toNat_add, BitVec.toNat_ofNat, BitVec.ofNat_eq_ofNat]
    omega

/-- Settles O55, by induction on the cycles: a cycle keeps the bound and leaves no write. -/
theorem timerPeriod : Obligations.TimerPeriod := by
  unfold Obligations.TimerPeriod
  intro t ok k hcnt hw
  suffices hall : ((fun u => Timer.tick u true ok)^[k] t).cnt.toNat = k % (t.bound.toNat + 1) ∧
      ((fun u => Timer.tick u true ok)^[k] t).written = none ∧ ((fun u => Timer.tick u true ok)^[k] t).bound = t.bound from
    hall.1
  induction k with
  | zero => simp [hcnt, hw]
  | succ k ih =>
    obtain ⟨hcount, hnone, hbound⟩ := ih
    have hpos : 0 < t.bound.toNat + 1 := by omega
    rw [Function.iterate_succ_apply']
    refine ⟨?_, rfl, hbound⟩
    have hle : k % (t.bound.toNat + 1) ≤ t.bound.toNat := Nat.lt_succ_iff.mp (Nat.mod_lt k hpos)
    rw [Timer.toNat_cnt_tick ok hnone (by rw [hcount, hbound]; exact hle), hcount, hbound, Nat.mod_add_mod]

end Sys2Proof.Machine
end

section
/-! PROOFS. The environment instructions and the CSR instructions: which register an address names, what the six instructions do with
it, and what each register reads after a write. -/

namespace Sys2Proof.Machine

/-! ## What a CSR instruction does -/

theorem State.csrInstr_illegal {s : State} {a : BitVec 12} {isWrite : Bool} (h : csrAccess s.cfg a isWrite false = none)
    (bits : Word) (rd : RegIdx) (new : Word → Word) : s.csrInstr bits rd a isWrite new = s.exception .illegal bits := by
  rw [State.csrInstr, h]

theorem State.csrInstr_read {s : State} {a : BitVec 12} {r : Csr} (h : csrAccess s.cfg a false false = some r)
    (bits : Word) (rd : RegIdx) (new : Word → Word) :
    s.csrInstr bits rd a false new = s.writeBack 4 [16] rd (s.csrRead s.cur r) := by
  simp [State.csrInstr, h, csrEvents, State.setReg, State.retire, State.writeBack]

theorem State.csrInstr_write {s : State} {a : BitVec 12} {r : Csr} (h : csrAccess s.cfg a true false = some r)
    (bits : Word) (rd : RegIdx) (new : Word → Word) :
    s.csrInstr bits rd a true new =
      ((s.retire 4 (csrEvents true rd)).csrWrite s.cur r (new (s.csrRead s.cur r)) false).setReg rd (s.csrRead s.cur r) := by
  rw [State.csrInstr, h]
  rfl

/-- The register of an address that is not illegal whatever the instruction does with it. -/
theorem csrAccess_eq_some {a : BitVec 12} {r : Csr} (c : Config) (isWrite : Bool) (ha : csrOf a = some r)
    (hdebug : r.debugOnly = false) (hro : isWrite = true → csrReadOnly a = false)
    (hclaim : r = .meicpct → c.fastRedirect = false) : csrAccess c a isWrite false = some r := by
  have hwrite : (isWrite && csrReadOnly a) = false := by cases isWrite <;> simp_all
  have hredirect : (r == .meicpct && c.fastRedirect) = false := by
    by_cases hr : r = .meicpct
    · rw [hclaim hr, Bool.and_false]
    · rw [beq_false_of_ne hr, Bool.false_and]
  simp [csrAccess, ha, hdebug, hwrite, hredirect]

/-! ## Constant registers -/

/-- A `csrrs` from `x0` of a register that may be read computes what the register reads. -/
theorem computesAlways_csrrs {a : BitVec 12} {r : Csr} {f : State → Word} (rd : RegIdx)
    (haccess : ∀ c, csrAccess c a false false = some r) (hread : ∀ s, s.csrRead s.cur r = f s) :
    ComputesAlways (.csrrs rd a 0) 4 rd f :=
  computesAlways_of_writeBack (evs := [16]) fun s => by
    rw [← hread]
    exact congrArg Host.Outcome.next (State.csrInstr_read (haccess s.cfg) _ rd _)

theorem csrOf_hardwiredZero {base k : Nat} (hk : k < 25) (hbase : base ∈ [0x327, 0xB07, 0xB87]) :
    csrOf (BitVec.ofNat 12 (base + k)) = some .zero := by
  have hzero : hardwiredZero (BitVec.ofNat 12 (base + k)).toNat = true := by
    simp only [List.mem_cons, List.not_mem_nil, or_false] at hbase
    simp only [hardwiredZero, BitVec.toNat_ofNat, Bool.or_eq_true, Bool.and_eq_true, decide_eq_true_eq]
    omega
  rw [csrOf, if_pos hzero]

/-- Settles O41: each register reads a constant of the build. -/
theorem constantCsrs : Obligations.ConstantCsrs := by
  unfold Obligations.ConstantCsrs
  intro rd
  refine ⟨?vendor, ?arch, ?imp, ?hart, ?harts, ?isa, ?zero⟩
  case vendor => exact computesAlways_csrrs (r := .mvendorid) rd (fun _ => rfl) fun _ => rfl
  case arch => exact computesAlways_csrrs (r := .marchid) rd (fun _ => rfl) fun _ => rfl
  case imp => exact computesAlways_csrrs (r := .mimpid) rd (fun _ => rfl) fun _ => rfl
  case hart =>
    refine computesAlways_csrrs (r := .mhartid) rd (fun _ => rfl) fun s => ?_
    have hvalue : s.csrRead s.cur .mhartid = _ := append_eq_ofNat s.cfg.coreId (BitVec.ofNat 4 s.cur.number) 32
    rw [hvalue]
    cases s.cur <;> rfl
  case harts => exact computesAlways_csrrs (r := .mhartnum) rd (fun _ => rfl) fun _ => rfl
  case isa =>
    refine computesAlways_csrrs (r := .misa) rd (fun _ => rfl) fun s => ?_
    simp [State.csrRead, atomicsBuilt]
  case zero =>
    intro k hk base hbase
    exact computesAlways_csrrs (r := .zero) rd
      (fun c => csrAccess_eq_some c false (csrOf_hardwiredZero hk hbase) rfl (by simp) (by simp)) fun _ => rfl

/-! ## Illegal accesses -/

theorem mem_of_tableFind {a : Nat} {r : Csr} : ∀ {l : List (Nat × Csr)}, tableFind a l = some r → (a, r) ∈ l
  | (k, x) :: rest, h => by
    unfold tableFind at h
    split at h
    · next hk =>
      cases h
      exact hk ▸ List.mem_cons_self
    · exact List.mem_cons_of_mem _ (mem_of_tableFind h)

/-- The six CSR instructions raise the illegal-instruction exception where neither a read nor a write is an access. -/
theorem csr_raises {s : State} {i : Instr} {a : BitVec 12} {isWrite : Bool} {rd : RegIdx} {new : Word → Word}
    (hexec : exec i s = .next (s.csrInstr (encode i).bits rd a isWrite new))
    (h : csrAccess s.cfg a isWrite false = none) : ∃ t, exec i s = .next t ∧ Traps s t ⟨2, 0⟩ (encode i).bits :=
  ⟨_, hexec, (State.csrInstr_illegal h _ rd new) ▸ s.exception_traps .illegal _ [] (by decide)⟩

theorem csrAccess_readOnly {a : BitVec 12} (ha : 0xC00 ≤ a.toNat) (c : Config) : csrAccess c a true false = none := by
  have hlt := a.isLt
  have hro : csrReadOnly a = true := by
    rw [csrReadOnly, beq_iff_eq]
    apply BitVec.eq_of_toNat_eq
    rw [BitVec.extractLsb'_toNat, Nat.shiftRight_eq_div_pow]
    simp
    omega
  unfold csrAccess
  split <;> simp [hro]

theorem csrAccess_debugOnly {a : BitVec 12} {r : Csr} (ha : csrOf a = some r) (hr : r.debugOnly = true) (c : Config)
    (isWrite : Bool) : csrAccess c a isWrite false = none := by
  simp [csrAccess, ha, hr]

theorem csrAccess_unlisted {a : BitVec 12} (ha : csrOf a = none) (c : Config) (isWrite : Bool) :
    csrAccess c a isWrite false = none := by
  simp [csrAccess, ha]

/-- The ranges of addresses that name a register or a hardwired counter or selector (R27 to R29). -/
def csrRanges : List (Nat × Nat) :=
  [(0x300, 0x301), (0x304, 0x305), (0x320, 0x320), (0x323, 0x33F), (0x340, 0x344), (0x7A0, 0x7A2),
    (0x7B0, 0x7B1), (0x7C0, 0x7C0), (0x7C2, 0x7C2), (0x7C4, 0x7C4), (0x7C6, 0x7C6), (0x7C8, 0x7CC), (0x7CE, 0x7CF),
    (0x7D2, 0x7D7), (0x7F0, 0x7F2), (0x7F8, 0x7F9), (0x7FC, 0x7FC), (0x7FE, 0x7FF), (0xB00, 0xB00), (0xB02, 0xB1F),
    (0xB80, 0xB80), (0xB82, 0xB9F), (0xBC0, 0xBC0), (0xBC8, 0xBCC), (0xF11, 0xF14), (0xFC0, 0xFC0), (0xFC4, 0xFC4),
    (0xFC8, 0xFC8)]

theorem mem_csrRanges_of_table :
    ∀ p ∈ standardCsrs ++ customCsrs, ∃ q ∈ csrRanges, q.1 ≤ p.1 ∧ p.1 ≤ q.2 := by decide

/-- An address that names a register lies in one of the ranges. -/
theorem csrOf_eq_none {a : BitVec 12} (h : ¬∃ q ∈ csrRanges, q.1 ≤ a.toNat ∧ a.toNat ≤ q.2) : csrOf a = none := by
  have htable {l : List (Nat × Csr)} (hl : l ⊆ standardCsrs ++ customCsrs) : tableFind a.toNat l = none := by
    cases hfind : tableFind a.toNat l with
    | none => rfl
    | some r => exact absurd (mem_csrRanges_of_table _ (hl (mem_of_tableFind hfind))) h
  have hzero : hardwiredZero a.toNat = false := by
    by_contra hne
    simp only [Bool.not_eq_false, hardwiredZero, Bool.or_eq_true, Bool.and_eq_true, decide_eq_true_eq] at hne
    rcases hne with (hr | hr) | hr
    · exact h ⟨(0x323, 0x33F), by decide, by omega, by omega⟩
    · exact h ⟨(0xB02, 0xB1F), by decide, by omega, by omega⟩
    · exact h ⟨(0xB82, 0xB9F), by decide, by omega, by omega⟩
  rw [csrOf, hzero, htable (List.subset_append_left _ _), htable (List.subset_append_right _ _)]
  rfl

theorem csrOf_debugOnly {a : BitVec 12} (ha : a.toNat ∈ [0x7B0, 0x7B1, 0x7C4, 0x7C8, 0x7C9, 0x7CA, 0x7CB, 0x7CC]) :
    ∃ r, csrOf a = some r ∧ r.debugOnly = true := by
  have hnum : BitVec.ofNat 12 a.toNat = a := (BitVec.ofNat_toNat 12 a).trans (BitVec.setWidth_eq a)
  rw [← hnum]
  generalize a.toNat = n at ha
  fin_cases ha <;> exact ⟨_, rfl, rfl⟩

/-- Settles O42: in each case no register answers the access. -/
theorem illegalCsrAccesses : Obligations.IllegalCsrAccesses := by
  unfold Obligations.IllegalCsrAccesses
  intro s rd rs1 u a raises illegal inRange listed
  have hall (h : ∀ w, csrAccess s.cfg a w false = none) : illegal :=
    ⟨csr_raises rfl (h _), csr_raises rfl (h _), csr_raises rfl (h _), csr_raises rfl (h _), csr_raises rfl (h _),
      csr_raises rfl (h _)⟩
  refine ⟨fun h => ?unlisted, fun h => ?readOnly, fun h => ?debug, fun ha hredirect => ?claim⟩
  case unlisted => exact hall (csrAccess_unlisted (csrOf_eq_none h) s.cfg)
  case readOnly =>
    have hwrite := csrAccess_readOnly h s.cfg
    refine ⟨csr_raises rfl hwrite, csr_raises rfl hwrite, fun hne => ?_, fun hne => ?_⟩
    · have hw : csrAccess s.cfg a (rs1 != 0) false = none := by rw [bne_iff_ne.mpr hne, hwrite]
      exact ⟨csr_raises rfl hw, csr_raises rfl hw⟩
    · have hw : csrAccess s.cfg a (u != 0) false = none := by rw [bne_iff_ne.mpr hne, hwrite]
      exact ⟨csr_raises rfl hw, csr_raises rfl hw⟩
  case debug =>
    obtain ⟨r, hr, hdebug⟩ := csrOf_debugOnly h
    exact hall (csrAccess_debugOnly hr hdebug s.cfg)
  case claim =>
    refine hall fun w => ?_
    subst ha
    have hclaim : csrOf 0xBCA = some .meicpct := rfl
    unfold csrAccess
    rw [hclaim]
    simp [hredirect]

/-! ## Triggers that belong to the debugger (R216 to R218) -/

theorem Hart.retire_counted (h : Hart) (n : Nat) (e : List Nat) : CountedOnce h (h.retire n e) :=
  h.retireTo_counted _ n e

/-- Outside Debug Mode the selected trigger, when it belongs to the debugger, takes no write. -/
theorem Triggers.writeControl_of_dmode {t : Triggers} (h : t.selected.dmode = true) (w : Word) :
    t.writeControl w false = t := by
  have hkeep {x : Trigger} (hx : x.dmode = true) (even : Bool) (prev next : Option Trigger) :
      x.writeControl w false even prev next = x := by simp [Trigger.writeControl, hx]
  unfold Triggers.selected at h
  unfold Triggers.writeControl
  split_ifs at h ⊢ <;> rw [hkeep h]

theorem Triggers.writeValue_of_dmode {t : Triggers} (h : t.selected.dmode = true) (w : Word) :
    t.writeValue w false = t := by simp [Triggers.writeValue, h]

/-- A CSR instruction whose write does nothing only reads the register into `rd`. -/
theorem State.csrInstr_computes {s : State} {a : BitVec 12} {r : Csr} (haccess : ∀ w, csrAccess s.cfg a w false = some r)
    (hkeep : ∀ (e : List Nat) (w : Word), (s.retire 4 e).csrWrite s.cur r w false = s.retire 4 e) (rd : RegIdx) (bits : Word)
    (isWrite : Bool) (new : Word → Word) :
    Computes s (s.csrInstr bits rd a isWrite new) 4 rd (s.csrRead s.cur r) := by
  cases isWrite with
  | false =>
    rw [State.csrInstr_read (haccess false)]
    exact s.writeBack_computes 4 _ rd _
  | true =>
    have hwrite : s.csrInstr bits rd a true new = s.writeBack 4 (csrEvents true rd) rd (s.csrRead s.cur r) := by
      rw [State.csrInstr_write (haccess true), hkeep]
      exact State.mapHart_mapHart s _ _
    rw [hwrite]
    exact s.writeBack_computes 4 _ rd _

/-- Each of the six CSR instructions on a register whose writes do nothing. -/
theorem csr_computes {s : State} {a : BitVec 12} {v : Word} (rd rs1 : RegIdx) (u : BitVec 5)
    (h : ∀ bits isWrite new, Computes s (s.csrInstr bits rd a isWrite new) 4 rd v) :
    ∀ i ∈ [Instr.csrrw rd a rs1, .csrrs rd a rs1, .csrrc rd a rs1, .csrrwi rd a u, .csrrsi rd a u, .csrrci rd a u],
      ∃ t, exec i s = .next t ∧ Computes s t 4 rd v := by
  intro i hi
  simp only [List.mem_cons, List.not_mem_nil, or_false] at hi
  rcases hi with rfl | rfl | rfl | rfl | rfl | rfl <;> exact ⟨_, rfl, h _ _ _⟩

/-- Settles O43: the trigger takes no write, so the instruction only reads. -/
theorem triggersAreProtected : Obligations.TriggersAreProtected := by
  unfold Obligations.TriggersAreProtected
  intro s rd rs1 u hdmode
  have hmode (e : List Nat) : (s.hart.retire 4 e).trig.selected.dmode = true := hdmode
  refine ⟨csr_computes rd rs1 u (State.csrInstr_computes (r := .tdata1) ?_ (fun e w => ?_) rd),
    csr_computes rd rs1 u (State.csrInstr_computes (r := .tdata2) ?_ (fun e w => ?_) rd)⟩
  · exact fun w => csrAccess_eq_some s.cfg w rfl rfl (fun _ => rfl) (by simp)
  · have hkeep := Triggers.writeControl_of_dmode (hmode e) w
    change (s.retire 4 e).mapHart _ = _
    unfold State.retire
    rw [State.mapHart_mapHart]
    exact State.mapHart_congr s _ _ (by rw [hkeep])
  · exact fun w => csrAccess_eq_some s.cfg w rfl rfl (fun _ => rfl) (by simp)
  · have hkeep := Triggers.writeValue_of_dmode (hmode e) w
    change (s.retire 4 e).mapHart _ = _
    unfold State.retire
    rw [State.mapHart_mapHart]
    exact State.mapHart_congr s _ _ (by rw [hkeep])

/-! ## The six instructions on `mscratch` -/

/-- The executing hart after a CSR instruction on `mscratch` with the new value `v`. -/
theorem State.csrInstr_mscratch (s : State) (bits : Word) (rd : RegIdx) (isWrite : Bool) (new : Word → Word) :
    s.csrInstr bits rd 0x340 isWrite new = s.mapHart fun h =>
      ({ h.retire 4 (csrEvents isWrite rd) with
        trap := { h.trap with mscratch := if isWrite then new h.trap.mscratch else h.trap.mscratch } } : Hart).setReg rd
        h.trap.mscratch := by
  have haccess (w : Bool) : csrAccess s.cfg 0x340 w false = some .mscratch :=
    csrAccess_eq_some s.cfg w rfl rfl (fun _ => rfl) (by simp)
  cases isWrite with
  | false => exact State.csrInstr_read (haccess false) bits rd new
  | true =>
    rw [State.csrInstr_write (haccess true)]
    change ((s.mapHart _).mapHart _).mapHart _ = _
    rw [State.mapHart_mapHart, State.mapHart_mapHart]
    exact State.mapHart_congr s _ _ rfl

/-- The old value to `rd`, the new one to the register, and what else a CSR instruction on `mscratch` does. -/
theorem csr_setsMscratch {s : State} {i : Instr} {bits : Word} {rd : RegIdx} {isWrite : Bool} {new : Word → Word} {v : Word}
    (hexec : exec i s = .next (s.csrInstr bits rd 0x340 isWrite new))
    (hv : (if isWrite then new s.hart.trap.mscratch else s.hart.trap.mscratch) = v) :
    ∃ t, exec i s = .next t ∧ Writes s t rd s.hart.trap.mscratch ∧ t.pc = s.pc + 4 ∧ CountedOnce s.hart t.hart ∧
      SameMemory s t ∧ t = s.mapHart fun h => { h with
        regs := t.hart.regs, pc := t.hart.pc, ctr := t.hart.ctr, trap := { h.trap with mscratch := v } } := by
  subst hv
  rw [State.csrInstr_mscratch] at hexec
  refine ⟨_, hexec, fun r => ?_, ?_, ?_, fun _ => rfl, State.mapHart_congr s _ _ ?_⟩
  · rw [State.reg_mapHart, Hart.reg_setReg]
    rfl
  · rw [State.pc_mapHart, Hart.setReg_pc]
    rfl
  · rw [State.hart_mapHart]
    exact (s.hart.retire_counted 4 _).congr (Hart.setReg_ctr ..)
  · rw [State.hart_mapHart]
    unfold Hart.setReg
    split <;> rfl

/-- A register number that is 0 names a value that changes nothing. -/
theorem ite_reg_ne_zero (s : State) (r : RegIdx) (f : Word → Word) (x : Word) (h0 : f 0 = x) :
    (if r != 0 then f (s.reg r) else x) = f (s.reg r) := by
  by_cases hr : r = 0
  · subst hr
    exact h0.symm
  · rw [if_pos (bne_iff_ne.mpr hr)]

theorem ite_uimm_ne_zero (u : BitVec 5) (f : Word → Word) (x : Word) (h0 : f 0 = x) :
    (if u != 0 then f (u.setWidth 32) else x) = f (BitVec.ofNat 32 u.toNat) := by
  rw [BitVec.ofNat_toNat]
  by_cases hu : u = 0
  · subst hu
    exact h0.symm
  · rw [if_pos (bne_iff_ne.mpr hu)]

/-- Settles O39: the value each instruction writes, where it writes. -/
theorem csrInstructions : Obligations.CsrInstructions := by
  unfold Obligations.CsrInstructions
  intro s rd rs1 u old sets
  refine ⟨csr_setsMscratch rfl rfl, csr_setsMscratch rfl ?_, csr_setsMscratch rfl ?_, csr_setsMscratch rfl ?_,
    csr_setsMscratch rfl ?_, csr_setsMscratch rfl ?_⟩
  · exact ite_reg_ne_zero s rs1 (fun v => old ||| v) old BitVec.or_zero
  · exact ite_reg_ne_zero s rs1 (fun v => old &&& ~~~v) old BitVec.and_allOnes
  · exact (BitVec.ofNat_toNat 32 u).symm
  · exact ite_uimm_ne_zero u (fun v => old ||| v) old BitVec.or_zero
  · exact ite_uimm_ne_zero u (fun v => old &&& ~~~v) old BitVec.and_allOnes

/-! ## Environment instructions -/

theorem TrapRegs.mstatus_mpp (t : TrapRegs) : t.mstatus &&& 0x1800 = 0x1800 := by
  unfold TrapRegs.mstatus
  cases t.mstatusMpie <;> cases t.mstatusMie <;> rfl

/-- Settles O38: `mret` is counted, then returns; `wfi` only goes on. -/
theorem returnFromTrapAndWait : Obligations.ReturnFromTrapAndWait := by
  unfold Obligations.ReturnFromTrapAndWait
  refine ⟨rfl, rfl, fun s => ⟨⟨_, rfl, s.retire_goes 4 _⟩, ?_⟩⟩
  have hexec : exec .mret s = .next (s.mapHart fun h => (h.retire 4 [23]).mret.clearReservation) :=
    congrArg Host.Outcome.next (State.mapHart_mapHart s _ _)
  refine ⟨_, hexec, by rw [State.pc_mapHart]; rfl, ?_, TrapRegs.mstatus_mpp _, ?_, fun r => ?_, fun _ => rfl, ?_, ?_⟩
  · rw [State.hart_mapHart]
    rfl
  · rw [State.hart_mapHart]
    rfl
  · rw [State.reg_mapHart]
    exact Hart.reg_congr rfl r
  · rw [State.hart_mapHart]
    exact (s.hart.retire_counted 4 _).congr rfl
  · exact State.mapHart_congr s _ _ (by rw [State.hart_mapHart]; rfl)

/-- A breakpoint that counts, or not, changes only event counters. -/
theorem Hart.countBreakpoint_cases (h : Hart) : h.countBreakpoint = h ∨ h.countBreakpoint = h.count [19] := by
  unfold Hart.countBreakpoint
  split
  · exact .inl rfl
  · exact .inr rfl

theorem Hart.countBreakpoint_frame (h : Hart) :
    h.countBreakpoint = { h with ctr := h.countBreakpoint.ctr } ∧ h.countBreakpoint.ctr.minstret = h.ctr.minstret := by
  rcases h.countBreakpoint_cases with e | e <;> rw [e]
  · exact ⟨rfl, rfl⟩
  · refine ⟨?_, h.count_minstret _⟩
    unfold Hart.count
    split <;> rfl

/-- Settles O37: an exception with the stated cause, or Debug Mode after the waiting stores are performed. -/
theorem callsAndBreakpoints : Obligations.CallsAndBreakpoints := by
  unfold Obligations.CallsAndBreakpoints
  intro s
  refine ⟨⟨_, rfl, s.exception_traps .ecall 0 [20] (by decide)⟩, fun i hi => ?_⟩
  have hexec : exec i s = .next s.breakpoint := by rcases hi with rfl | rfl <;> rfl
  refine ⟨fun hm => ⟨_, hexec, ?_⟩, fun hm => ⟨_, hexec, ?_⟩⟩
  · rw [State.breakpoint, hm]
    exact s.exception_traps .ebreak s.pc [19] (by decide)
  · have hdrain : (s.drainAll s.cur).hart =
        { s.hart with nmi := ((s.drainAll s.cur).hartAt s.cur).nmi, buffer := [] } := by
      rw [State.hart, State.drainAll_cur]
      exact State.drainAll_hartAt s s.cur
    obtain ⟨hframe, hcount⟩ := (s.drainAll s.cur).hart.countBreakpoint_frame
    have hregs : (s.drainAll s.cur).hart.regs = s.hart.regs := by rw [hdrain]
    have hpc : (s.drainAll s.cur).hart.pc = s.pc := by rw [hdrain]; rfl
    have htrap : (s.drainAll s.cur).hart.trap = s.hart.trap := by rw [hdrain]
    have hctr : (s.drainAll s.cur).hart.ctr = s.hart.ctr := by rw [hdrain]
    have hbuffer : (s.drainAll s.cur).hart.buffer = [] := by rw [hdrain]
    rw [State.breakpoint, if_pos hm, State.hart_mapHart]
    refine ⟨rfl, rfl, ?_, rfl, fun r => ?_, ?_, ?_, ?_, rfl⟩
    · rw [← hpc]
      rfl
    · rw [State.reg_mapHart]
      exact Hart.reg_congr ((congrArg Hart.regs hframe).trans hregs) r
    · exact (congrArg Hart.trap hframe).trans htrap
    · exact hcount.trans (congrArg Counters.minstret hctr)
    · exact (congrArg Hart.buffer hframe).trans hbuffer

end Sys2Proof.Machine
end

section
/-! PROOFS. What each CSR reads after a write (10_state.md R31 to R47, 11, 12): the bits that are there, in the arithmetic of masks. -/

namespace Sys2Proof.Machine

/-! ## Masks -/

/-- The low `n` bits of a word, widened, are the word under a mask. -/
theorem setWidth_setWidth_eq_and (w : Word) {n : Nat} (hn : n ≤ 32) :
    (w.setWidth n).setWidth 32 = w &&& BitVec.ofNat 32 (2 ^ n - 1) := by
  apply BitVec.eq_of_toNat_eq
  have hpow : 2 ^ n ≤ 2 ^ 32 := Nat.pow_le_pow_right (by decide) hn
  have hlt : 2 ^ n - 1 < 2 ^ 32 := by omega
  rw [BitVec.toNat_and, BitVec.toNat_ofNat, Nat.mod_eq_of_lt hlt, Nat.and_two_pow_sub_one_eq_mod, BitVec.toNat_setWidth,
    BitVec.toNat_setWidth, Nat.mod_eq_of_lt]
  exact (Nat.mod_lt _ (Nat.two_pow_pos n)).trans_le hpow

theorem prioView_prioView (b : Bool) (v : BitVec 4) : prioView b (prioView b v) = v := by
  cases b <;> simp [prioView]

theorem mstatus_written (t : TrapRegs) (w : Word) :
    TrapRegs.mstatus { t with mstatusMie := w.getLsbD 3, mstatusMpie := w.getLsbD 7 } = w &&& 0x88 ||| 0x1800 := by
  unfold TrapRegs.mstatus
  refine BitVec.eq_of_getLsbD_eq fun i hi => ?_
  rw [BitVec.getLsbD_or, BitVec.getLsbD_setWidth, BitVec.getLsbD_append, BitVec.getLsbD_append, BitVec.getLsbD_append]
  interval_cases i <;> simp

theorem inhibit_written (w : Word) : (w.setWidth 7 &&& 0x7D).setWidth 32 = w &&& 0x7D := by
  rw [BitVec.setWidth_and, setWidth_setWidth_eq_and w (by decide), BitVec.and_assoc]
  rfl

theorem legalEvent_setWidth (w : Word) : (legalEvent w).setWidth 32 =
    if w.toNat ≤ 32 ∨ (34 ≤ w.toNat ∧ w.toNat ≤ 56) ∨ (512 ≤ w.toNat ∧ w.toNat ≤ 516) then w else 0 := by
  by_cases h : w.toNat ≤ 32 ∨ (34 ≤ w.toNat ∧ w.toNat ≤ 56) ∨ (512 ≤ w.toNat ∧ w.toNat ≤ 516)
  · apply BitVec.eq_of_toNat_eq
    simp only [legalEvent, if_pos h, BitVec.toNat_setWidth]
    omega
  · simp only [legalEvent, if_neg h]
    rfl

theorem haltie_written (w : Word) : (BitVec.ofBool (w.getLsbD 1) ++ 0#1).setWidth 32 = w &&& 2 := by
  refine BitVec.eq_of_getLsbD_eq fun i hi => ?_
  rw [BitVec.getLsbD_setWidth, BitVec.getLsbD_append]
  interval_cases i <;> simp

theorem Timer.ctl_writeCtl (t : Timer) (w : Word) (hasCascade : Bool) :
    (t.writeCtl w hasCascade).ctl = w &&& if hasCascade then 15 else 7 := by
  unfold Timer.ctl Timer.writeCtl
  refine BitVec.eq_of_getLsbD_eq fun i hi => ?_
  rw [BitVec.getLsbD_setWidth, BitVec.getLsbD_append, BitVec.getLsbD_append, BitVec.getLsbD_append]
  cases hasCascade <;> interval_cases i <;> simp

theorem vecBase_written (w : Word) : w.extractLsb' 10 22 ++ 0#10 = w &&& 0xFFFFFC00 := by
  refine BitVec.eq_of_getLsbD_eq fun i hi => ?_
  rw [BitVec.getLsbD_append]
  interval_cases i <;> simp

theorem legalErrorCounter_eq_ofNat (w : Word) :
    legalErrorCounter w = BitVec.ofNat 32 (min (w.toNat / 2 ^ 27) 26 * 2 ^ 27 + w.toNat % 2 ^ 27) := by
  have hhigh : (w.extractLsb' 27 5).toNat = w.toNat / 2 ^ 27 := by
    have hlt := w.isLt
    rw [BitVec.extractLsb'_toNat, Nat.shiftRight_eq_div_pow]
    omega
  have hmin : (if (26#5).ult (w.extractLsb' 27 5) then 26#5 else w.extractLsb' 27 5).toNat = min (w.toNat / 2 ^ 27) 26 := by
    rw [BitVec.ult_eq_decide, hhigh]
    split <;> rename_i h <;> simp only [BitVec.toNat_ofNat, hhigh] <;> simp at h <;> omega
  have hsum : legalErrorCounter w = _ := append_eq_ofNat
    (if (26#5).ult (w.extractLsb' 27 5) then 26#5 else w.extractLsb' 27 5) (w.extractLsb' 0 27) 32
  rw [hsum, hmin, toNat_low]

theorem getLsbD_legalMrac (w : Word) {k : Nat} (hk : k < 16) :
    (legalMrac w).getLsbD (2 * k + 1) = w.getLsbD (2 * k + 1) ∧
      (legalMrac w).getLsbD (2 * k) = (w.getLsbD (2 * k) && !w.getLsbD (2 * k + 1)) := by
  unfold legalMrac
  interval_cases k <;> simp

theorem low32_setLow32 (v : DWord) (w : Word) : low32 (setLow32 v w) = w := BitVec.extractLsb'_append_eq_right

theorem high32_setHigh32 (v : DWord) (w : Word) : high32 (setHigh32 v w) = w := BitVec.extractLsb'_append_eq_left

/-! ## Triggers -/

/-- The trigger that a software write to `tdata1` leaves, where the debugger does not own it (R217). -/
theorem Trigger.writeControl_of_not_dmode {t : Trigger} (h : t.dmode = false) (w : Word) (even : Bool)
    (prev next : Option Trigger) : t.writeControl w false even prev next = { t with
      dmode := false, hit := w.getLsbD 20, select := w.getLsbD 19, action := w.getLsbD 12
      chain := even && w.getLsbD 11 && !next.any Trigger.dmode
      napot := w.getLsbD 7, m := w.getLsbD 6, execute := !w.getLsbD 19 && w.getLsbD 2, store := w.getLsbD 1
      load := !w.getLsbD 19 && w.getLsbD 0 } := by
  cases next <;> simp [Trigger.writeControl, h]

/-- What `tdata1` reads of a trigger that software has written (R216, R217). -/
theorem Trigger.tdata1_writeControl {t : Trigger} (h : t.dmode = false) (w : Word) (even : Bool) (prev next : Option Trigger) :
    (t.writeControl w false even prev next).tdata1 = 0x23E00000 ||| (w &&& 0x001810C2) |||
      (if w.getLsbD 19 then 0 else w &&& 5) |||
      (if even && !next.any Trigger.dmode then w &&& 0x800 else 0) := by
  rw [t.writeControl_of_not_dmode h]
  refine BitVec.eq_of_getLsbD_eq fun i hi => ?_
  unfold Trigger.tdata1
  repeat rw [BitVec.getLsbD_append]
  have hite (c : Prop) [Decidable c] (x y : Word) : (if c then x else y).getLsbD i = if c then x.getLsbD i else y.getLsbD i :=
    apply_ite (fun v => v.getLsbD i) c x y
  rw [BitVec.getLsbD_or, BitVec.getLsbD_or, BitVec.getLsbD_or, hite, hite, BitVec.getLsbD_and, BitVec.getLsbD_and,
    BitVec.getLsbD_and]
  interval_cases i <;> simp [Bool.and_right_comm]

/-- A write to `tdata1` is one to the selected trigger; triggers 0 and 2 have a neighbour to chain to. -/
theorem Triggers.tdata1_writeControl {t : Triggers} (h : t.selected.dmode = false) (w : Word) :
    (t.writeControl w false).selected.tdata1 = 0x23E00000 ||| (w &&& 0x001810C2) |||
      (if w.getLsbD 19 then 0 else w &&& 5) |||
      (if (decide (t.tselect = 0) && !t.tr1.dmode) || (decide (t.tselect = 2) && !t.tr3.dmode) then w &&& 0x800 else 0) := by
  by_cases h0 : t.tselect = 0
  · rw [Triggers.selected, if_pos h0] at h
    simp [Triggers.writeControl, Triggers.selected, h0, Trigger.tdata1_writeControl h]
  by_cases h1 : t.tselect = 1
  · rw [Triggers.selected, if_neg h0, if_pos h1] at h
    simp [Triggers.writeControl, Triggers.selected, h1, Trigger.tdata1_writeControl h]
  by_cases h2 : t.tselect = 2
  · rw [Triggers.selected, if_neg h0, if_neg h1, if_pos h2] at h
    simp [Triggers.writeControl, Triggers.selected, h2, Trigger.tdata1_writeControl h]
  · rw [Triggers.selected, if_neg h0, if_neg h1, if_neg h2] at h
    simp only [Triggers.writeControl, Triggers.selected, if_neg h0, if_neg h1, if_neg h2, Trigger.tdata1_writeControl h]
    rw [decide_eq_false h0, decide_eq_false h2]
    simp

theorem Triggers.tdata2_writeValue {t : Triggers} (h : t.selected.dmode = false) (w : Word) :
    (t.writeValue w false).selected.tdata2 = w := by
  rw [Triggers.writeValue, h]
  unfold Triggers.setSelected
  simp only [Bool.not_false, Bool.and_false, Bool.false_eq_true, if_false]
  split_ifs with h0 h1 h2
  · rw [Triggers.selected, if_pos h0]
  · rw [Triggers.selected, if_neg h0, if_pos h1]
  · rw [Triggers.selected, if_neg h0, if_neg h1, if_pos h2]
  · rw [Triggers.selected, if_neg h0, if_neg h1, if_neg h2]

/-! ## A write, and the read that follows -/

/-- What a `csrrs` reads after a `csrrw` is what the register reads after the write, which comes after the count. -/
theorem readsBackIf_of_csrWrite {a : BitVec 12} {r : Csr} {ok : State → Word → Prop} {f : State → Word → Word}
    (ha : csrOf a = some r) (hdebug : r.debugOnly = false) (hro : csrReadOnly a = false)
    (hclaim : r = .meicpct → ∀ s v, ok s v → s.cfg.fastRedirect = false)
    (hvalue : ∀ s v, ok s v → ((s.retire 4 [18]).csrWrite s.cur r v false).csrRead s.cur r = f s v) :
    ReadsBackIf a ok f := by
  intro s rs1 rd hok
  have haccess (c : Config) (hc : c = s.cfg) (w : Bool) : csrAccess c a w false = some r :=
    csrAccess_eq_some c w ha hdebug (fun _ => hro) fun hr => hc ▸ hclaim hr s _ hok
  have hwrite : exec (.csrrw 0 a rs1) s = .next ((s.retire 4 [18]).csrWrite s.cur r (s.reg rs1) false) :=
    congrArg Host.Outcome.next ((State.csrInstr_write (haccess _ rfl true) _ 0 _).trans (State.mapHart_id _))
  have hcfg : ((s.retire 4 [18]).csrWrite s.cur r (s.reg rs1) false).cfg = s.cfg := State.csrWrite_cfg ..
  have hcur : ((s.retire 4 [18]).csrWrite s.cur r (s.reg rs1) false).cur = s.cur := (State.csrWrite_cur ..).1
  refine ⟨_, _, hwrite, congrArg Host.Outcome.next (State.csrInstr_read (haccess _ hcfg false) _ rd _), ?_⟩
  rw [hcur, hvalue s _ hok]
  exact (State.writeBack_computes _ 4 _ rd _).result

/-- The same for a register whose value depends on the value written only. -/
theorem readsBack_of_csrWrite {a : BitVec 12} (r : Csr) {f : Word → Word} 
    (hvalue : ∀ (s : State) (v : Word), ((s.retire 4 [18]).csrWrite s.cur r v false).csrRead s.cur r = f v)
    (ha : csrOf a = some r := by rfl) (hdebug : r.debugOnly = false := by rfl) (hro : csrReadOnly a = false := by rfl)
    (hclaim : r ≠ .meicpct := by decide) : ReadsBack a f :=
  readsBackIf_of_csrWrite ha hdebug hro (fun hr => absurd hr hclaim) fun s v _ => hvalue s v

/-- A register of the hart, as the hart that wrote it reads it. -/
theorem State.hartAt_retire_mapHartAt (s : State) (e : List Nat) (f : Hart → Hart) :
    ((s.retire 4 e).mapHartAt s.cur f).hartAt s.cur = f (s.hart.retire 4 e) := by
  rw [State.hartAt_mapHartAt_same]
  exact congrArg f (State.hart_mapHart s _)

theorem contains_legalCauses {v : Word} (h : v.toNat ≤ 7 ∨ v ∈ [11, 0x80000003, 0x80000007, 0x8000000B, 0x8000001C,
    0x8000001D, 0x8000001E, 0xF0000000, 0xF0000001, 0xF0001000, 0xF0001001, 0xF0001002]) :
    legalCauses.contains v = true := by
  rw [List.contains_iff_mem]
  rcases h with hlow | hmem
  · have hsmall : ∀ n ≤ 7, BitVec.ofNat 32 n ∈ legalCauses := by decide
    have hv : BitVec.ofNat 32 v.toNat = v := (BitVec.ofNat_toNat 32 v).trans (BitVec.setWidth_eq v)
    exact hv ▸ hsmall _ hlow
  · exact List.mem_of_mem_drop (i := 8) hmem

/-- `mip` shows the interrupt lines, which retiring an instruction does not move (R36). -/
theorem State.mip_retire (s : State) (e : List Nat) : (s.retire 4 e).mip s.cur = s.mip s.cur := by
  have hhart : (s.retire 4 e).hartAt s.cur = s.hart.retire 4 e := State.hart_mapHart s _
  unfold State.mip State.extIrq
  rw [hhart]
  rfl

/-- Going to Sleep keeps the power register of the hart. -/
theorem State.enterSleep_haltie (s : State) (h : HartId) :
    ((s.enterSleep h).hartAt h).power.haltie = (s.hartAt h).power.haltie := by
  rw [State.enterSleep, State.hartAt_mapHartAt_same, State.drainAll_hartAt]

theorem State.writeMpmc_haltie (s : State) (h : HartId) (w : Word) (d : Bool) :
    ((s.writeMpmc h w d).hartAt h).power.haltie = w.getLsbD 1 := by
  unfold State.writeMpmc
  dsimp only
  split
  · rw [State.enterSleep_haltie, State.hartAt_mapHartAt_same, State.hartAt_mapHartAt_same]
  · rw [State.hartAt_mapHartAt_same]

/-- Writing `mhartstart` starts hart 1 where there is one (R112). -/
theorem State.startHart1_start1 (s : State) : s.startHart1.shared.start1 = (s.shared.start1 || s.cfg.dualThread) := by
  unfold State.startHart1
  cases hd : s.cfg.dualThread <;> cases hs : s.shared.start1 <;> simp [hs]

theorem writeNmiDel_setWidth (old : BitVec 2) (w : Word) (dual : Bool) : (writeNmiDel old w dual).setWidth 32 =
    let v := w &&& (if dual then 3 else 1)
    if v = 0 then old.setWidth 32 else v := by
  have hmask : (w.setWidth 2 &&& if dual then 3 else 1).setWidth 32 = w &&& (if dual then 3 else 1) := by
    rw [BitVec.setWidth_and, setWidth_setWidth_eq_and w (by decide), BitVec.and_assoc]
    cases dual <;> rfl
  have hzero : (w.setWidth 2 &&& if dual then 3 else 1) = 0 ↔ w &&& (if dual then 3 else 1) = 0 := by
    rw [← hmask]
    constructor
    · intro h
      rw [h]
      rfl
    · intro h
      simpa using congrArg (BitVec.setWidth 2) h
  by_cases hv : w &&& (if dual then 3 else 1) = 0
  · simp only [writeNmiDel, if_pos (hzero.mpr hv), if_pos hv]
  · simp only [writeNmiDel, if_neg (mt hzero.mp hv), if_neg hv, hmask]

/-- A write to a counter, by a CSR instruction, as the counter holds it afterwards. -/
theorem Counters.get_set (c : Counters) (i : CounterId) (v : DWord) : (c.set i v).get i = v := by
  cases i with
  | cycle => rfl
  | hpm n => cases n <;> rfl

theorem Hart.writeCounter_get (h : Hart) (id fresh : Nat) (i : CounterId) (f : DWord → DWord) :
    (h.writeCounter id fresh false i f).ctr.get i = f ((h.tickCounters id 0 fresh).get i) := 
  Counters.get_set _ i _

/-- Settles O40: for each register, what `csrRead` shows of what `csrWrite` stored. -/
theorem csrReadBack : Obligations.CsrReadBack := by
  unfold Obligations.CsrReadBack
  intro notOwned chainable
  simp only [List.forall_mem_cons, List.not_mem_nil, false_implies, implies_true, and_true]
  refine ⟨?mstatus, ?misa, ?mie, ?mtvec, ?mcountinhibit, ?mhpmevent, ?mscratch, ?mepc, ?mcause, ?mtval, ?mip, ?tselect,
    ?tdata1, ?tdata2, ?zeros, ?meicpct, ?mpmc, ?mfdht, ?mfdhs, ?timers, ?mitctl0, ?mitctl1, ?mcgc, ?mfdc, ?mhartstart,
    ?mnmipdel, ?mscause, ?meivt, ?priorities, ?thresholds, ?counters, ?mrac⟩
  case mstatus =>
    refine readsBack_of_csrWrite .mstatus fun s v => ?_
    simp only [State.csrRead, State.csrWrite, State.hartAt_retire_mapHartAt]
    exact mstatus_written _ v
  case misa =>
    refine readsBackIf_of_csrWrite (r := .misa) rfl rfl rfl (by simp) fun s v _ => ?_
    simp [State.csrRead, State.csrWrite, atomicsBuilt, State.retire]
  case mie =>
    exact readsBack_of_csrWrite .mie fun s v => by
      simp only [State.csrRead, State.csrWrite, State.hartAt_retire_mapHartAt]
  case mtvec =>
    exact readsBack_of_csrWrite .mtvec fun s v => by
      simp only [State.csrRead, State.csrWrite, State.hartAt_retire_mapHartAt]
  case mcountinhibit =>
    exact readsBack_of_csrWrite .mcountinhibit fun s v => by
      simp only [State.csrRead, State.csrWrite, State.hartAt_retire_mapHartAt]
      exact inhibit_written v
  case mhpmevent =>
    refine ⟨?_, ?_, ?_, ?_⟩
    · exact readsBack_of_csrWrite (.mhpmevent .c3) fun s v => by
        simp only [State.csrRead, State.csrWrite, State.hartAt_retire_mapHartAt]
        exact legalEvent_setWidth v
    · exact readsBack_of_csrWrite (.mhpmevent .c4) fun s v => by
        simp only [State.csrRead, State.csrWrite, State.hartAt_retire_mapHartAt]
        exact legalEvent_setWidth v
    · exact readsBack_of_csrWrite (.mhpmevent .c5) fun s v => by
        simp only [State.csrRead, State.csrWrite, State.hartAt_retire_mapHartAt]
        exact legalEvent_setWidth v
    · exact readsBack_of_csrWrite (.mhpmevent .c6) fun s v => by
        simp only [State.csrRead, State.csrWrite, State.hartAt_retire_mapHartAt]
        exact legalEvent_setWidth v
  case mscratch =>
    exact readsBack_of_csrWrite .mscratch fun s v => by
      simp only [State.csrRead, State.csrWrite, State.hartAt_retire_mapHartAt]
  case mepc =>
    exact readsBack_of_csrWrite .mepc fun s v => by
      simp only [State.csrRead, State.csrWrite, State.hartAt_retire_mapHartAt]
  case mcause =>
    refine readsBackIf_of_csrWrite (r := .mcause) rfl rfl rfl (by simp) fun s v hv => ?_
    simp only [State.csrRead, State.csrWrite, State.hartAt_retire_mapHartAt]
    rw [if_pos (contains_legalCauses hv)]
  case mtval =>
    exact readsBack_of_csrWrite .mtval fun s v => by
      simp only [State.csrRead, State.csrWrite, State.hartAt_retire_mapHartAt]
  case mip => exact readsBackIf_of_csrWrite (r := .mip) rfl rfl rfl (by simp) fun s v _ => s.mip_retire [18]
  case tselect =>
    exact readsBack_of_csrWrite .tselect fun s v => by
      simp only [State.csrRead, State.csrWrite, State.hartAt_retire_mapHartAt]
      exact setWidth_setWidth_eq_and v (by decide)
  case tdata1 =>
    refine readsBackIf_of_csrWrite (r := .tdata1) rfl rfl rfl (by simp) fun s v hfree => ?_
    simp only [State.csrRead, State.csrWrite, State.hartAt_retire_mapHartAt]
    exact Triggers.tdata1_writeControl hfree v
  case tdata2 =>
    refine readsBackIf_of_csrWrite (r := .tdata2) rfl rfl rfl (by simp) fun s v hfree => ?_
    simp only [State.csrRead, State.csrWrite, State.hartAt_retire_mapHartAt]
    exact Triggers.tdata2_writeValue hfree v
  case zeros =>
    exact ⟨readsBack_of_csrWrite .mcpc fun s v => rfl, readsBack_of_csrWrite .mdeau fun s v => rfl⟩
  case meicpct =>
    exact readsBackIf_of_csrWrite (r := .meicpct) rfl rfl rfl (fun _ _ _ h => h) fun s v _ => rfl
  case mpmc =>
    refine readsBack_of_csrWrite .mpmc fun s v => ?_
    simp only [State.csrRead, State.csrWrite, State.writeMpmc_haltie]
    exact haltie_written v
  case mfdht => exact readsBack_of_csrWrite .mfdht fun s v => setWidth_setWidth_eq_and v (by decide)
  case mfdhs =>
    exact readsBack_of_csrWrite .mfdhs fun s v => by
      simp only [State.csrRead, State.csrWrite, State.hartAt_retire_mapHartAt]
      exact setWidth_setWidth_eq_and v (by decide)
  case timers =>
    refine ⟨?_, ?_, ?_, ?_⟩
    · exact readsBack_of_csrWrite .mitcnt0 fun s v => by
        simp only [State.csrRead, State.csrWrite, State.hartAt_retire_mapHartAt]
        exact rfl
    · exact readsBack_of_csrWrite .mitb0 fun s v => by
        simp only [State.csrRead, State.csrWrite, State.hartAt_retire_mapHartAt]
    · exact readsBack_of_csrWrite .mitcnt1 fun s v => by
        simp only [State.csrRead, State.csrWrite, State.hartAt_retire_mapHartAt]
        exact rfl
    · exact readsBack_of_csrWrite .mitb1 fun s v => by
        simp only [State.csrRead, State.csrWrite, State.hartAt_retire_mapHartAt]
  case mitctl0 =>
    exact readsBack_of_csrWrite .mitctl0 fun s v => by
      simp only [State.csrRead, State.csrWrite, State.hartAt_retire_mapHartAt]
      exact Timer.ctl_writeCtl _ v false
  case mitctl1 =>
    exact readsBack_of_csrWrite .mitctl1 fun s v => by
      simp only [State.csrRead, State.csrWrite, State.hartAt_retire_mapHartAt]
      exact Timer.ctl_writeCtl _ v true
  case mcgc => exact readsBack_of_csrWrite .mcgc fun s v => setWidth_setWidth_eq_and v (by decide)
  case mfdc => exact readsBack_of_csrWrite .mfdc fun s v => rfl
  case mhartstart =>
    refine readsBackIf_of_csrWrite (r := .mhartstart) rfl rfl rfl (by simp) fun s v _ => ?_
    have hstart : ((s.retire 4 [18]).csrWrite s.cur .mhartstart v false).shared.start1 =
        (s.shared.start1 || s.cfg.dualThread && v.getLsbD 1) := by
      cases hv : v.getLsbD 1 with
      | false => simp only [State.csrWrite, hv, Bool.false_eq_true, if_false, Bool.and_false, Bool.or_false]; rfl
      | true => simp only [State.csrWrite, hv, if_true, State.startHart1_start1, Bool.and_true]; rfl
    simp only [State.csrRead, hstart]
    cases s.shared.start1 <;> cases s.cfg.dualThread <;> cases v.getLsbD 1 <;> rfl
  case mnmipdel =>
    exact readsBackIf_of_csrWrite (r := .mnmipdel) rfl rfl rfl (by simp) fun s v _ => writeNmiDel_setWidth _ v _
  case mscause =>
    exact readsBack_of_csrWrite .mscause fun s v => by
      simp only [State.csrRead, State.csrWrite, State.hartAt_retire_mapHartAt]
      exact setWidth_setWidth_eq_and v (by decide)
  case meivt =>
    exact readsBack_of_csrWrite .meivt fun s v => by
      simp only [State.csrRead, State.csrWrite, State.hartAt_retire_mapHartAt]
      exact vecBase_written v
  case priorities =>
    refine ⟨?_, ?_, ?_⟩
    · exact readsBack_of_csrWrite .meipt fun s v => by
        simp only [State.csrRead, State.csrWrite, State.hartAt_retire_mapHartAt]
        exact (congrArg (BitVec.setWidth 32) (prioView_prioView _ _)).trans (setWidth_setWidth_eq_and v (by decide))
    · exact readsBack_of_csrWrite .meicidpl fun s v => by
        simp only [State.csrRead, State.csrWrite, State.hartAt_retire_mapHartAt]
        exact (congrArg (BitVec.setWidth 32) (prioView_prioView _ _)).trans (setWidth_setWidth_eq_and v (by decide))
    · exact readsBack_of_csrWrite .meicurpl fun s v => by
        simp only [State.csrRead, State.csrWrite, State.hartAt_retire_mapHartAt]
        exact (congrArg (BitVec.setWidth 32) (prioView_prioView _ _)).trans (setWidth_setWidth_eq_and v (by decide))
  case thresholds =>
    exact ⟨readsBack_of_csrWrite .micect fun s v => legalErrorCounter_eq_ofNat v,
      readsBack_of_csrWrite .miccmect fun s v => legalErrorCounter_eq_ofNat v,
      readsBack_of_csrWrite .mdccmect fun s v => legalErrorCounter_eq_ofNat v⟩
  case counters =>
    refine ⟨?_, ?_, ?_, ?_, ?_, ?_, ?_, ?_, ?_, ?_, ?_, ?_⟩
    · exact readsBack_of_csrWrite .mcycle fun s v => by
        simp only [State.csrRead, State.csrWrite, State.hartAt_retire_mapHartAt]
        exact (congrArg low32 (Hart.writeCounter_get _ _ _ .cycle _)).trans (low32_setLow32 _ v)
    · exact readsBack_of_csrWrite .minstret fun s v => by
        simp only [State.csrRead, State.csrWrite, State.hartAt_retire_mapHartAt]
        exact low32_setLow32 _ v
    · exact readsBack_of_csrWrite (.mhpmcounter .c3) fun s v => by
        simp only [State.csrRead, State.csrWrite, State.hartAt_retire_mapHartAt]
        exact (congrArg low32 (Hart.writeCounter_get _ _ _ (.hpm .c3) _)).trans (low32_setLow32 _ v)
    · exact readsBack_of_csrWrite (.mhpmcounter .c4) fun s v => by
        simp only [State.csrRead, State.csrWrite, State.hartAt_retire_mapHartAt]
        exact (congrArg low32 (Hart.writeCounter_get _ _ _ (.hpm .c4) _)).trans (low32_setLow32 _ v)
    · exact readsBack_of_csrWrite (.mhpmcounter .c5) fun s v => by
        simp only [State.csrRead, State.csrWrite, State.hartAt_retire_mapHartAt]
        exact (congrArg low32 (Hart.writeCounter_get _ _ _ (.hpm .c5) _)).trans (low32_setLow32 _ v)
    · exact readsBack_of_csrWrite (.mhpmcounter .c6) fun s v => by
        simp only [State.csrRead, State.csrWrite, State.hartAt_retire_mapHartAt]
        exact (congrArg low32 (Hart.writeCounter_get _ _ _ (.hpm .c6) _)).trans (low32_setLow32 _ v)
    · exact readsBack_of_csrWrite .mcycleh fun s v => by
        simp only [State.csrRead, State.csrWrite, State.hartAt_retire_mapHartAt]
        exact (congrArg high32 (Hart.writeCounter_get _ _ _ .cycle _)).trans (high32_setHigh32 _ v)
    · exact readsBack_of_csrWrite .minstreth fun s v => by
        simp only [State.csrRead, State.csrWrite, State.hartAt_retire_mapHartAt]
        exact high32_setHigh32 _ v
    · exact readsBack_of_csrWrite (.mhpmcounterh .c3) fun s v => by
        simp only [State.csrRead, State.csrWrite, State.hartAt_retire_mapHartAt]
        exact (congrArg high32 (Hart.writeCounter_get _ _ _ (.hpm .c3) _)).trans (high32_setHigh32 _ v)
    · exact readsBack_of_csrWrite (.mhpmcounterh .c4) fun s v => by
        simp only [State.csrRead, State.csrWrite, State.hartAt_retire_mapHartAt]
        exact (congrArg high32 (Hart.writeCounter_get _ _ _ (.hpm .c4) _)).trans (high32_setHigh32 _ v)
    · exact readsBack_of_csrWrite (.mhpmcounterh .c5) fun s v => by
        simp only [State.csrRead, State.csrWrite, State.hartAt_retire_mapHartAt]
        exact (congrArg high32 (Hart.writeCounter_get _ _ _ (.hpm .c5) _)).trans (high32_setHigh32 _ v)
    · exact readsBack_of_csrWrite (.mhpmcounterh .c6) fun s v => by
        simp only [State.csrRead, State.csrWrite, State.hartAt_retire_mapHartAt]
        exact (congrArg high32 (Hart.writeCounter_get _ _ _ (.hpm .c6) _)).trans (high32_setHigh32 _ v)
  case mrac =>
    intro s rs1
    have haccess (w : Bool) : csrAccess s.cfg 0x7C0 w false = some .mrac :=
      csrAccess_eq_some s.cfg w rfl rfl (fun _ => rfl) (by simp)
    exact ⟨_, congrArg Host.Outcome.next (State.csrInstr_write (haccess true) _ 0 _), fun k hk => getLsbD_legalMrac _ hk⟩

end Sys2Proof.Machine
end

section
/-! PROOFS. Loads: the shapes of the load instructions, their values byte by byte, and what a load from the DCCM or from the bus
leaves. -/

namespace Sys2Proof.Machine

/-! ## The load instructions -/

/-- Widening a number of at most `n` bytes, as the load's extension of the word does it. -/
structure Widens (ext : Word → Word) (signed : Bool) (n : Nat) : Prop where
  pos : 0 < n
  le : n ≤ 4
  value : ∀ v, v < 256 ^ n → ext (BitVec.ofNat 32 v) = widen signed n v

theorem ofInt_sub_two_pow (v : Nat) : BitVec.ofInt 32 ((v : Int) - 256 ^ 4) = BitVec.ofNat 32 v := by
  apply BitVec.eq_of_toNat_eq
  rw [BitVec.toNat_ofInt, BitVec.toNat_ofNat]
  omega

/-- Sign extension of the low `8 * n` bits. -/
theorem widen_signed_eq {w n v : Nat} (hv : v < 2 ^ (w + 1)) (hw : 2 ^ (w + 1) = 256 ^ n) (h32 : v < 2 ^ 32) :
    ((BitVec.ofNat 32 v).extractLsb' 0 (w + 1)).signExtend 32 = widen true n v := by
  rw [signExtend_low_eq_ofInt, BitVec.toNat_ofNat, Nat.mod_eq_of_lt h32, widen, ← hw]
  have hhalf : 2 ^ (w + 1) = 2 * 2 ^ w := by rw [pow_succ, Nat.mul_comm]
  split
  · next h =>
    have hmod : (v + 2 ^ w) % 2 ^ (w + 1) = v + 2 ^ w - 2 ^ (w + 1) := by
      rw [Nat.mod_eq_sub_mod (by omega), Nat.mod_eq_of_lt (by omega)]
    rw [hmod]
    have hcast : (256 : Int) ^ n = 2 ^ (w + 1) := by exact_mod_cast hw.symm
    congr 1
    push_cast [show 2 ^ (w + 1) ≤ v + 2 ^ w by omega]
    rw [hcast]
    ring
  · next h =>
    rw [Nat.mod_eq_of_lt (by simp at h; omega)]
    push_cast
    rw [add_sub_cancel_right]
    exact BitVec.ofInt_natCast 32 v

theorem widens_sext8 : Widens sext8 true 1 :=
  ⟨by decide, by decide, fun v hv => widen_signed_eq (w := 7) hv (by decide) (by omega)⟩

theorem widens_sext16 : Widens sext16 true 2 :=
  ⟨by decide, by decide, fun v hv => widen_signed_eq (w := 15) hv (by decide) (by omega)⟩

theorem widens_zext8 : Widens zext8 false 1 where
  pos := by decide
  le := by decide
  value v hv := by
    apply BitVec.eq_of_toNat_eq
    simp [zext8, widen]
    omega

theorem widens_zext16 : Widens zext16 false 2 where
  pos := by decide
  le := by decide
  value v hv := by
    apply BitVec.eq_of_toNat_eq
    simp [zext16, widen]
    omega

theorem widens_id : Widens id true 4 where
  pos := by decide
  le := by decide
  value v hv := by
    rw [widen]
    split
    · exact (ofInt_sub_two_pow v).symm
    · rfl

/-- A load instruction is `loadInstr`, with an extension that widens. -/
theorem IsLoad.exec_eq {i : Instr} {len : Nat} {rd rb : RegIdx} {off : Word} {n : Nat} {signed : Bool}
    (h : IsLoad i len rd rb off n signed) : ∃ ext, Widens ext signed n ∧
      ∀ s, exec i s = .next (s.loadInstr len rd (s.reg rb) off n ext) := by
  cases h with
  | lb => exact ⟨sext8, widens_sext8, fun _ => rfl⟩
  | lh => exact ⟨sext16, widens_sext16, fun _ => rfl⟩
  | lw => exact ⟨id, widens_id, fun _ => rfl⟩
  | lbu => exact ⟨zext8, widens_zext8, fun _ => rfl⟩
  | lhu => exact ⟨zext16, widens_zext16, fun _ => rfl⟩
  | cLw rd rs1 imm =>
    rw [← cReg_eq_creg, ← cReg_eq_creg, ← cWordOffset_eq_ofNat]
    exact ⟨id, widens_id, fun _ => rfl⟩
  | cLwsp rd imm =>
    rw [← cStackOffset_eq_ofNat]
    exact ⟨id, widens_id, fun _ => rfl⟩

/-- What a load that passes its checks does. -/
theorem State.loadInstr_passes {s : State} {b off : Word} {n : Nat} (h : s.accessFault false b (b + off) n = none)
    (len : Nat) (rd : RegIdx) (ext : Word → Word) :
    s.loadInstr len rd b off n ext = (s.readChecked (b + off) n).2.writeBack len (s.loadEvents (b + off) n) rd
      (s.loadValue ext (s.readChecked (b + off) n).1) := by
  rw [State.loadInstr]
  simp only [h]

theorem State.loadInstr_faults {s : State} {b off : Word} {n : Nat} {c : Cause}
    (h : s.accessFault false b (b + off) n = some c) (len : Nat) (rd : RegIdx) (ext : Word → Word) :
    s.loadInstr len rd b off n ext = s.exception c (b + off) := by
  rw [State.loadInstr]
  simp only [h]

/-! ## Little-endian numbers -/

theorem littleEndian_lt (f : Nat → Byte) : ∀ n, littleEndian f n < 256 ^ n
  | 0 => Nat.one_pos
  | n + 1 => by
    have hlow := littleEndian_lt f n
    have hbyte : (f n).toNat < 256 := (f n).isLt
    rw [littleEndian, pow_succ]
    nlinarith [Nat.mul_le_mul_right (256 ^ n) (Nat.le_sub_one_of_lt hbyte)]

theorem littleEndian_congr {f g : Nat → Byte} : ∀ {n : Nat}, (∀ k, k < n → f k = g k) → littleEndian f n = littleEndian g n
  | 0, _ => rfl
  | n + 1, h => by
    rw [littleEndian, littleEndian, littleEndian_congr fun k hk => h k (by omega), h n (by omega)]

theorem memReadN_eq_littleEndian (m : List Host.Cell) (a : Word) :
    ∀ n, memReadN m a n = littleEndian (fun k => memRead m (addrAt a k)) n
  | 0 => rfl
  | n + 1 => by rw [memReadN, littleEndian, memReadN_eq_littleEndian m a n, pow_mul]; rfl

theorem State.viewN_eq_littleEndian (s : State) (h : HartId) (a : Word) :
    ∀ n, s.viewN h a n = littleEndian (fun k => s.viewByte h (a + BitVec.ofNat 32 k)) n
  | 0 => rfl
  | n + 1 => by rw [State.viewN, littleEndian, State.viewN_eq_littleEndian s h a n, pow_mul]; rfl

/-! ## Loads from the DCCM -/

/-- Settles O24: the access passes its checks, and the DCCM's bytes are read as they stand. -/
theorem loadsFromDccm : Obligations.LoadsFromDccm := by
  unfold Obligations.LoadsFromDccm
  intro s i len rd rb off n signed hload access
  obtain ⟨ext, ⟨hpos, hle, hvalue⟩, hexec⟩ := hload.exec_eq
  refine ⟨_, hexec s, ?_⟩
  have hin : inDccm s.cfg (s.reg rb + off).toNat = true := access.inside 0 hpos
  have hbytes : memReadN s.mem (s.reg rb + off) n =
      littleEndian (fun k => memRead s.mem ((s.reg rb + off).toNat + k)) n := by
    rw [memReadN_eq_littleEndian]
    exact littleEndian_congr fun k hk => by rw [addrAt_of_lt _ k (access.lt k hk)]
  rw [State.loadInstr_passes (access.passes hpos hle false), State.readChecked_dccm s _ n hin, State.loadValue_some, hbytes,
    hvalue _ (littleEndian_lt _ n)]
  exact s.writeBack_computes len _ rd _

end Sys2Proof.Machine
end

section
/-! PROOFS. Loads from the bus, the checks of a load, and errors that the bus reports late. -/

namespace Sys2Proof.Machine

/-! ## What a read finds in the buffer -/

theorem coveredBytes_le (b : List PendingStore) (ok : PendingStore → Bool) (a : Word) :
    ∀ n, coveredBytes b ok a n ≤ coveredBytes b (fun _ => true) a n
  | 0 => le_rfl
  | n + 1 => by
    have hlow := coveredBytes_le b ok a n
    rw [coveredBytes, coveredBytes]
    cases newestAt (a + BitVec.ofNat 32 n) b with
    | none => simpa using hlow
    | some p =>
      dsimp only
      split <;> simp <;> omega

theorem newestAt_of_coveredBytes_zero {b : List PendingStore} {a : Word} : ∀ {n : Nat},
    coveredBytes b (fun _ => true) a n = 0 → ∀ k, k < n → newestAt (a + BitVec.ofNat 32 k) b = none
  | n + 1, h, k, hk => by
    rw [coveredBytes, Nat.add_eq_zero_iff] at h
    obtain ⟨hlow, hlast⟩ := h
    rcases Nat.lt_succ_iff_lt_or_eq.mp hk with hlt | rfl
    · exact newestAt_of_coveredBytes_zero hlow k hlt
    · cases hnew : newestAt (a + BitVec.ofNat 32 k) b with
      | none => rfl
      | some p => simp [hnew] at hlast

/-- The stores that the platform answers fit the address space. -/
theorem State.BufferAnswered.size_le {s : State} {h : HartId} (hb : s.BufferAnswered h) (hc : configOk s.cfg = true) :
    ∀ p ∈ (s.hartAt h).buffer, p.size ≤ 2 ^ 32 := by
  intro p hp
  have hsize := busAccepts_size hc .write _ _ (State.busAnswers_accepts (hb p hp))
  omega

/-- Reads of `n` bytes are answered by the platform, whatever memory and the harts hold. -/
theorem State.readAnswered_drainAll (s : State) (h : HartId) (a n : Nat) (exact : Bool) :
    (s.drainAll h).readAnswered a n exact = s.readAnswered a n exact := by
  simp only [State.readAnswered, State.busAnswers_congr (s.drainAll_cfg h) (s.drainAll_badWords h)]

theorem State.busRead_answered {s : State} {a : Word} {n : Nat} {exact : Bool} (h : s.readAnswered a.toNat n exact = true)
    (k : HartId) : s.busRead k a n exact = (some (BitVec.ofNat 32 (memReadN s.mem a n)), s) := by
  rw [State.busRead, if_pos h]

theorem State.busRead_refused {s : State} {a : Word} {n : Nat} {exact : Bool} (h : s.readAnswered a.toNat n exact = false)
    (k : HartId) : s.busRead k a n exact = (none, s.busError k .load a) := by
  rw [State.busRead, h]
  rfl

/-- The bytes from `a` as hart `h` sees them. -/
def State.viewed (s : State) (h : HartId) (a : Word) (n : Nat) : Nat :=
  littleEndian (fun k => s.viewByte h (a + BitVec.ofNat 32 k)) n

/-- Once its stores have drained, memory holds what the hart saw. -/
theorem State.memReadN_drainAll {s : State} {h : HartId} (hc : configOk s.cfg = true) (hb : s.BufferAnswered h) (a : Word)
    (n : Nat) : memReadN (s.drainAll h).mem a n = s.viewed h a n := by
  rw [memReadN_eq_littleEndian]
  exact littleEndian_congr fun k _ => s.memRead_drainAll h _ hb (hb.size_le hc)

/-- A load from the bus reads what the hart sees, with its stores drained or not (R271, R273). -/
theorem State.busLoad_view {s : State} {a : Word} {n : Nat} (hc : configOk s.cfg = true) (hpos : 0 < n)
    (hanswer : s.readAnswered a.toNat n (s.sideEffectAt s.cur a.toNat) = true ∨ s.forwarded a n = true)
    (hb : s.BufferAnswered s.cur) :
    s.busLoad s.cur a n = (some (BitVec.ofNat 32 (s.viewed s.cur a n)), s) ∨
      s.busLoad s.cur a n = (some (BitVec.ofNat 32 (s.viewed s.cur a n)), s.drainAll s.cur) := by
  have hdrained {exact : Bool} (h : s.readAnswered a.toNat n exact = true) :
      (s.drainAll s.cur).busRead s.cur a n exact = (some (BitVec.ofNat 32 (s.viewed s.cur a n)), s.drainAll s.cur) := by
    rw [State.busRead_answered ((s.readAnswered_drainAll s.cur _ n exact).trans h), State.memReadN_drainAll hc hb]
  unfold State.busLoad
  cases hse : s.sideEffectAt s.cur a.toNat with
  | true =>
    rw [hse] at hanswer
    have hread : s.readAnswered a.toNat n true = true := hanswer.resolve_right (by simp [State.forwarded, hse])
    exact .inr (hdrained hread)
  | false =>
    rw [hse] at hanswer
    have hforward : s.forwarded a n = decide (coveredBytes s.hart.buffer (fun p => !p.sideEffect) a n = n) := by
      simp [State.forwarded, hse]
    have hbuffer : (s.hartAt s.cur).buffer = s.hart.buffer := rfl
    simp only [Bool.false_eq_true, if_false, hbuffer]
    rw [hforward, decide_eq_true_eq] at hanswer
    by_cases hnone : coveredBytes s.hart.buffer (fun _ => true) a n = 0
    · have hle := coveredBytes_le s.hart.buffer (fun p => !p.sideEffect) a n
      have hread : s.readAnswered a.toNat n false = true := hanswer.resolve_right (by omega)
      have hview : memReadN s.mem a n = s.viewed s.cur a n := by
        rw [memReadN_eq_littleEndian]
        refine littleEndian_congr fun k hk => ?_
        rw [State.viewByte, hbuffer, newestAt_of_coveredBytes_zero hnone k hk]
        rfl
      rw [if_pos hnone, State.busRead_answered hread, hview]
      exact .inl rfl
    · rw [if_neg hnone]
      by_cases hall : coveredBytes s.hart.buffer (fun p => !p.sideEffect) a n = n
      · rw [if_pos hall, State.viewN_eq_littleEndian]
        exact .inl rfl
      · rw [if_neg hall]
        exact .inr (hdrained (hanswer.resolve_right hall))

/-! ## What a load from the bus leaves -/

theorem State.mapHart_afterDrain (s : State) (m : List Host.Cell) (q : NmiRegs) (b : List PendingStore) (g : Hart → Hart) :
    (s.afterDrain s.cur m q b).mapHart g = { s.mapHart (fun h => g { h with nmi := q, buffer := b }) with mem := m } := by
  obtain ⟨cfg, cur, _⟩ := s
  cases cur <;> rfl

theorem State.hart_mapHart_afterDrain (s : State) (m : List Host.Cell) (q : NmiRegs) (b : List PendingStore)
    (g : Hart → Hart) : ((s.afterDrain s.cur m q b).mapHart g).hart = g { s.hart with nmi := q, buffer := b } := by
  rw [State.hart_mapHart]
  exact congrArg g (s.afterDrain_hartAt s.cur m q b)

theorem State.mapHart_afterDrain_rest (s : State) (m : List Host.Cell) (q : NmiRegs) (b : List PendingStore)
    {f g : Hart → Hart} (h : g { s.hart with nmi := q, buffer := b } = f s.hart) :
    { (s.afterDrain s.cur m q b).mapHart g with mem := s.mem } = s.mapHart f := by
  rw [State.mapHart_afterDrain]
  exact s.mapHart_congr (fun x => g { x with nmi := q, buffer := b }) f h

theorem State.viewByte_congr {s t : State} {h : HartId} (hb : (t.hartAt h).buffer = (s.hartAt h).buffer) (hm : t.mem = s.mem)
    (x : Word) : t.viewByte h x = s.viewByte h x := by
  rw [State.viewByte, State.viewByte, hb, hm]

/-- A load whose stores left the buffer, or not, leaves the hart's view as it was. -/
theorem loadsFromBus_of_afterDrain {s u : State} {m : List Host.Cell} {b : List PendingStore}
    (hu : u = s.afterDrain s.cur m s.hart.nmi b) (hview : ∀ x : Word, u.viewByte s.cur x = s.viewByte s.cur x)
    (hmem : ∀ x : Word, (∀ p ∈ s.hart.buffer, p.covers x = false) → memRead u.mem x.toNat = memRead s.mem x.toNat)
    (len : Nat) (e : List Nat) (rd : RegIdx) (v : Word) : LoadsFromBus s (u.writeBack len e rd v) len rd v := by
  have hhart : (u.writeBack len e rd v).hart =
      (({ s.hart with nmi := s.hart.nmi, buffer := b } : Hart).retire len e).setReg rd v :=
    hu ▸ State.hart_mapHart_afterDrain s m _ b _
  refine ⟨fun r => ?_, ?_, ?_, fun x => ?_, hmem, ?_⟩
  · rw [State.reg, hhart, Hart.reg_setReg]
    rfl
  · rw [State.pc, hhart, Hart.setReg_pc]
    rfl
  · rw [hhart]
    exact (s.hart.retire_counted len e).congr (Hart.setReg_ctr ..)
  · rw [← hview x]
    have hcur : u.cur = s.cur := hu ▸ rfl
    refine State.viewByte_congr (s := u) (t := u.writeBack len e rd v) ?_ rfl x
    rw [← hcur]
    exact (congrArg Hart.buffer (State.hart_mapHart u _)).trans (Hart.setReg_buffer ..)
  · rw [hhart, hu]
    refine State.mapHart_afterDrain_rest s m _ b ?_
    unfold Hart.setReg
    split <;> rfl

/-- A read that was served with the stores drained or not leaves what a load from the bus leaves. -/
theorem State.loadsFromBus_of_read {s u : State} (hc : configOk s.cfg = true) (hb : s.BufferAnswered s.cur)
    (hu : u = s ∨ u = s.drainAll s.cur) (len : Nat) (e : List Nat) (rd : RegIdx) (v : Word) :
    LoadsFromBus s (u.writeBack len e rd v) len rd v := by
  have hsize := hb.size_le hc
  rcases hu with rfl | rfl
  · exact loadsFromBus_of_afterDrain (u.afterDrain_self u.cur).symm (fun _ => rfl) (fun _ _ => rfl) len e rd v
  · refine loadsFromBus_of_afterDrain (s.drainAll_ram s.cur hb) (fun x => ?_) (fun x hx => ?_) len e rd v
    · rw [State.viewByte_nil _ _ _ (s.drainAll_buffer s.cur), s.memRead_drainAll s.cur x hb hsize]
    · rw [s.memRead_drainAll s.cur x hb hsize, State.viewByte]
      cases hnew : newestAt x (s.hartAt s.cur).buffer with
      | none => rfl
      | some p =>
        obtain ⟨hp, hcover⟩ := newestAt_mem x _ p hnew
        simp [hx p hp] at hcover

/-- Settles O25: the access passes its checks, and the bus or the buffer serves it. -/
theorem loadsFromBusMemory : Obligations.LoadsFromBusMemory := by
  unfold Obligations.LoadsFromBusMemory
  intro s i len rd rb off n signed hload access hanswer hb
  obtain ⟨ext, ⟨hpos, -, hvalue⟩, hexec⟩ := hload.exec_eq
  obtain ⟨hdccm, hpic, -⟩ := coreLocal_of_outside access.build access.outside
  refine ⟨_, hexec s, ?_⟩
  rw [State.loadInstr_passes (access.passes false), State.readChecked_bus s _ n hdccm hpic]
  have hval : ext (BitVec.ofNat 32 (s.viewed s.cur (s.reg rb + off) n)) = _ := hvalue _ (littleEndian_lt _ n)
  rcases s.busLoad_view access.build hpos hanswer hb with hread | hread <;>
    rw [hread, State.loadValue_some, hval]
  · exact State.loadsFromBus_of_read access.build hb (.inl rfl) len _ rd _
  · exact State.loadsFromBus_of_read access.build hb (.inr rfl) len _ rd _

/-! ## Errors that the bus reports late (R320) -/

/-- A load that finds no store waiting and that the platform refuses. -/
theorem State.busLoad_refused {s : State} {a : Word} {n : Nat} (hempty : s.hart.buffer = [])
    (h : s.readAnswered a.toNat n (s.sideEffectAt s.cur a.toNat) = false) :
    s.busLoad s.cur a n = (none, s.busError s.cur .load a) := by
  have hdrain : s.drainAll s.cur = s := s.drain_nil s.cur _ hempty
  have hnone : ∀ m, coveredBytes [] (fun _ => true) a m = 0 := by
    intro m
    induction m with
    | zero => rfl
    | succ m ih => rw [coveredBytes, ih]; rfl
  have hbuffer : (s.hartAt s.cur).buffer = [] := hempty
  unfold State.busLoad
  cases hse : s.sideEffectAt s.cur a.toNat <;> rw [hse] at h
  · simp only [Bool.false_eq_true, if_false, hbuffer, hnone, if_true]
    exact State.busRead_refused h s.cur
  · rw [if_pos rfl, hdrain]
    exact State.busRead_refused h s.cur

theorem NmiRegs.capture_load (n : NmiRegs) (a : Word) : n.capture .load a =
    if n.locked then n else { n with mdseac := a, locked := true, bus := some .load, loadNow := true } := by
  cases hl : n.locked <;> simp [NmiRegs.capture, hl]

theorem NmiRegs.capture_store (n : NmiRegs) (a : Word) : n.capture .store a =
    if n.locked = true ∧ n.loadNow = false then n
    else { n with mdseac := a, locked := true, bus := some .store, loadNow := false } := by
  cases hl : n.locked <;> cases hn : n.loadNow <;> simp [NmiRegs.capture, hl, hn]

/-- The one waiting store leaves the buffer with an error (R320). -/
theorem State.drainAll_refused {s : State} {p : PendingStore} (hbuffer : s.hart.buffer = [p])
    (h : s.busAnswers .write p.addr.toNat p.size = false) :
    s.drainAll s.cur = s.mapHart fun x => { x with nmi := x.nmi.capture .store p.target, buffer := [] } := by
  have hb : (s.hartAt s.cur).buffer = [p] := hbuffer
  rw [State.drainAll, State.drain, hb]
  simp only [List.length_singleton, List.take_succ_cons, List.take_zero, List.foldl_cons, List.foldl_nil,
    State.performStore, h, Bool.false_eq_true, if_false, State.busError, State.mapHartAt_mapHartAt]
  rfl

/-- Settles O26: the error is captured where the bus reports it. -/
theorem busErrorsAreImprecise : Obligations.BusErrorsAreImprecise := by
  unfold Obligations.BusErrorsAreImprecise
  refine ⟨fun s i len rd rb off n signed hload access hrefused hempty => ?load,
    fun s p fm pred succ rs1 rd hbuffer hrefused => ?store⟩
  case load =>
    obtain ⟨ext, -, hexec⟩ := hload.exec_eq
    obtain ⟨hdccm, hpic, -⟩ := coreLocal_of_outside access.build access.outside
    let a := s.reg rb + off
    have hrun : exec i s = .next (s.mapHart fun h =>
        ((({ h with nmi := h.nmi.capture .load a } : Hart).retire len (s.loadEvents a n)).setReg rd
          (freeLoadData s.env.fresh))) := by
      rw [hexec, State.loadInstr_passes (access.passes false), State.readChecked_bus s _ n hdccm hpic,
        State.busLoad_refused hempty hrefused, State.loadValue_none]
      exact congrArg Host.Outcome.next (State.mapHart_mapHart s (fun h => { h with nmi := h.nmi.capture .load a }) _)
    refine ⟨freeLoadData s.env.fresh, _, hrun, fun r => ?_, ?_, ?_, fun _ => rfl, ?_, State.mapHart_congr s _ _ ?_⟩
    · rw [State.reg_mapHart, Hart.reg_setReg]
      rfl
    · rw [State.pc_mapHart, Hart.setReg_pc]
      rfl
    · rw [State.hart_mapHart]
      exact (s.hart.retire_counted len _).congr (Hart.setReg_ctr ..)
    · rw [State.hart_mapHart, Hart.setReg_nmi, ← NmiRegs.capture_load]
      rfl
    · rw [State.hart_mapHart]
      unfold Hart.setReg
      split <;> rfl
  case store =>
    have hrun : exec (.fence fm pred succ rs1 rd) s = .next (s.mapHart fun h =>
        ({ h with
          nmi := h.nmi.capture .store p.target, buffer := []
          seen := { h.seen with data := s.shared.mrac } } : Hart).retire 4 [21]) := by
      have hfence : (s.fenceOp s.cur).retire 4 [21] = ((s.drainAll s.cur).mapHartAt s.cur _).mapHart _ := rfl
      rw [State.drainAll_refused hbuffer hrefused] at hfence
      exact congrArg Host.Outcome.next (hfence.trans
        ((State.mapHart_mapHart (s.mapHart _) _ _).trans (State.mapHart_mapHart s _ _)))
    refine ⟨_, hrun, fun _ => rfl, ?_, ?_⟩
    · rw [State.hart_mapHart]
      rfl
    · rw [State.hart_mapHart, ← NmiRegs.capture_store]
      rfl

end Sys2Proof.Machine
end

section
/-! PROOFS. The checks of loads and stores in their order (20_memory.md R300), and what a store leaves in the DCCM and in the
buffer. -/

namespace Sys2Proof.Machine

/-! ## The checks -/

/-- A word that the access touches has a double-bit error, it is reported, and it is not overwritten whole (R300, R307, R125). -/
theorem State.eccFault_iff (s : State) (isStore : Bool) (x n : Nat) : s.eccFault isStore x n = true ↔
    s.shared.mfdc.getLsbD 8 = false ∧ ¬(isStore = true ∧ n = 4 ∧ x % 4 = 0) ∧
      (wordAddr x ∈ s.badWords ∨ wordAddr (x + n - 1) ∈ s.badWords) := by
  have hany : s.badWords.any (onWord x n) = true ↔ wordAddr x ∈ s.badWords ∨ wordAddr (x + n - 1) ∈ s.badWords := by
    simp only [List.any_eq_true, onWord, Bool.or_eq_true, beq_iff_eq]
    constructor
    · rintro ⟨w, hw, rfl | rfl⟩
      · exact .inl hw
      · exact .inr hw
    · rintro (h | h)
      · exact ⟨_, h, .inl rfl⟩
      · exact ⟨_, h, .inr rfl⟩
  have hpart : (!(isStore && n == 4 && x % 4 == 0)) = true ↔ ¬(isStore = true ∧ n = 4 ∧ x % 4 = 0) := by
    rw [Bool.not_eq_true', ← Bool.not_eq_true]
    simp only [Bool.and_eq_true, beq_iff_eq, and_assoc]
  rw [State.eccFault, Bool.and_eq_true, Bool.and_eq_true, hany, hpart, Bool.not_eq_true', and_assoc]

/-- The checks of R300 as conditions on numbers, the first one that hits. -/
theorem State.accessFault_eq (s : State) (isStore : Bool) (b a : Word) (n : Nat) : s.accessFault isStore b a n =
    let x := a.toNat
    let e := x + n - 1
    let own := dRegion s.cfg x
    if regionOf x ≠ regionOf e then some ⟨misalignedCode isStore, 2⟩
    else if own = false ∧ s.sideEffectAt s.cur x = true ∧ x % n ≠ 0 then some ⟨misalignedCode isStore, 1⟩
    else if own = true ∧ ¬(inDccm s.cfg x = true ∧ inDccm s.cfg e = true) ∧
      ¬(inPic s.cfg x = true ∧ inPic s.cfg e = true) then some ⟨accessFaultCode isStore, 2⟩
    else if own = false ∧ windowsAllow s.cfg.dataWindows x e = false then some ⟨accessFaultCode isStore, 3⟩
    else if coreLocal s.cfg b.toNat ≠ coreLocal s.cfg x then some ⟨accessFaultCode isStore, 5⟩
    else if inPic s.cfg x = true ∧ (n ≠ 4 ∨ x % 4 ≠ 0) then some ⟨accessFaultCode isStore, 6⟩
    else if inDccm s.cfg x = true ∧ s.shared.mfdc.getLsbD 8 = false ∧ ¬(isStore = true ∧ n = 4 ∧ x % 4 = 0) ∧
      (wordAddr x ∈ s.badWords ∨ wordAddr e ∈ s.badWords) then some ⟨accessFaultCode isStore, 1⟩
    else none := by
  simp only [State.accessFault, crossesRegion, bne_iff_ne, Bool.and_eq_true, Bool.or_eq_true, Bool.not_eq_true', and_assoc,
    State.eccFault_iff, ← Bool.not_eq_true]

/-- Settles O29: the first check that hits gives the exception, and nothing else happens. -/
theorem loadChecks : Obligations.LoadChecks := by
  unfold Obligations.LoadChecks
  intro s i len rd rb off n signed hload a x e own raises
  obtain ⟨ext, -, hexec⟩ := hload.exec_eq
  have raise {c : Cause} (h : s.accessFault false (s.reg rb) a n = some c) : raises c :=
    ⟨_, (hexec s).trans (congrArg Host.Outcome.next (State.loadInstr_faults h len rd ext)),
      s.exception_traps c a [] (s.accessFault_cause false (s.reg rb) a n c h)⟩
  have hchecks := s.accessFault_eq false (s.reg rb) a n
  dsimp only at hchecks
  split_ifs with h1 h2 h3 h4 h5 h6 h7
  · exact raise (by rw [hchecks, if_pos h1]; rfl)
  · exact raise (by rw [hchecks, if_neg h1, if_pos h2]; rfl)
  · exact raise (by rw [hchecks, if_neg h1, if_neg h2, if_pos h3]; rfl)
  · exact raise (by rw [hchecks, if_neg h1, if_neg h2, if_neg h3, if_pos h4]; rfl)
  · exact raise (by rw [hchecks, if_neg h1, if_neg h2, if_neg h3, if_neg h4, if_pos h5]; rfl)
  · exact raise (by rw [hchecks, if_neg h1, if_neg h2, if_neg h3, if_neg h4, if_neg h5, if_pos h6]; rfl)
  · obtain ⟨hin, hreport, hbad⟩ := h7
    exact raise (by
      rw [hchecks, if_neg h1, if_neg h2, if_neg h3, if_neg h4, if_neg h5, if_neg h6, if_pos ⟨hin, hreport, by simp, hbad⟩]
      rfl)

/-! ## The store instructions -/

/-- A store instruction is `storeInstr` of one, two or four bytes. -/
theorem IsStore.exec_eq {i : Instr} {len : Nat} {rs rb : RegIdx} {off : Word} {n : Nat} (h : IsStore i len rs rb off n) :
    0 < n ∧ n ≤ 4 ∧ ∀ s, exec i s = .next (s.storeInstr len (s.reg rb) off (s.reg rs) n) := by
  cases h with
  | sb => exact ⟨by decide, by decide, fun _ => rfl⟩
  | sh => exact ⟨by decide, by decide, fun _ => rfl⟩
  | sw => exact ⟨by decide, by decide, fun _ => rfl⟩
  | cSw rs2 rs1 imm =>
    rw [← cReg_eq_creg, ← cReg_eq_creg, ← cWordOffset_eq_ofNat]
    exact ⟨by decide, by decide, fun _ => rfl⟩
  | cSwsp rs2 imm =>
    rw [← cStackOffset_eq_ofNat]
    exact ⟨by decide, by decide, fun _ => rfl⟩

theorem State.storeInstr_passes {s : State} {b off : Word} {n : Nat} (h : s.accessFault true b (b + off) n = none)
    (len : Nat) (v : Word) :
    s.storeInstr len b off v n = (s.writeChecked (b + off) v n).retire len (s.storeEvents (b + off) n) := by
  rw [State.storeInstr]
  simp only [h]

theorem State.storeInstr_faults {s : State} {b off : Word} {n : Nat} {c : Cause}
    (h : s.accessFault true b (b + off) n = some c) (len : Nat) (v : Word) :
    s.storeInstr len b off v n = s.exception c (b + off) := by
  rw [State.storeInstr]
  simp only [h]

/-- Settles O30: the checks of a load with the store's codes, but for a whole aligned word with an error. -/
theorem storeChecks : Obligations.StoreChecks := by
  unfold Obligations.StoreChecks
  intro s i len rs rb off n hstore a x e own raises
  obtain ⟨-, -, hexec⟩ := hstore.exec_eq
  have raise {c : Cause} (h : s.accessFault true (s.reg rb) a n = some c) : raises c :=
    ⟨_, (hexec s).trans (congrArg Host.Outcome.next (State.storeInstr_faults h len (s.reg rs))),
      s.exception_traps c a [] (s.accessFault_cause true (s.reg rb) a n c h)⟩
  have hchecks := s.accessFault_eq true (s.reg rb) a n
  dsimp only at hchecks
  split_ifs with h1 h2 h3 h4 h5 h6 h7
  · exact raise (by rw [hchecks, if_pos h1]; rfl)
  · exact raise (by rw [hchecks, if_neg h1, if_pos h2]; rfl)
  · exact raise (by rw [hchecks, if_neg h1, if_neg h2, if_pos h3]; rfl)
  · exact raise (by rw [hchecks, if_neg h1, if_neg h2, if_neg h3, if_pos h4]; rfl)
  · exact raise (by rw [hchecks, if_neg h1, if_neg h2, if_neg h3, if_neg h4, if_pos h5]; rfl)
  · exact raise (by rw [hchecks, if_neg h1, if_neg h2, if_neg h3, if_neg h4, if_neg h5, if_pos h6]; rfl)
  · obtain ⟨hin, hreport, hpart, hbad⟩ := h7
    exact raise (by
      rw [hchecks, if_neg h1, if_neg h2, if_neg h3, if_neg h4, if_neg h5, if_neg h6,
        if_pos ⟨hin, hreport, fun h => hpart h.2, hbad⟩]
      rfl)

/-! ## Stores into the DCCM -/

/-- A store that the model lets into the DCCM: its checks pass, or do not apply. -/
theorem State.accessFault_dccm_unreported {s : State} {b a : Word} {n : Nat} (hc : configOk s.cfg = true) (hpos : 0 < n)
    (hle : n ≤ 4) (hbase : coreLocal s.cfg b.toNat = true) (hin : ∀ k, k < n → inDccm s.cfg (a.toNat + k) = true)
    (hskip : n = 4 ∧ a.toNat % 4 = 0 ∨ s.shared.mfdc.getLsbD 8 = true) : s.accessFault true b a n = none := by
  have access : DccmAccess { s with badWords := [] } b a n := ⟨hc, hbase, hin, fun _ _ => List.not_mem_nil⟩
  have hpass := access.passes hpos hle true
  have hecc : s.eccFault true a.toNat n = false := by
    rw [← Bool.not_eq_true, State.eccFault_iff]
    rintro ⟨hreport, hpart, -⟩
    rcases hskip with hwhole | hoff
    · exact hpart ⟨rfl, hwhole⟩
    · rw [hoff] at hreport
      cases hreport
  have hsame : s.accessFault true b a n = ({ s with badWords := [] } : State).accessFault true b a n := by
    have hecc' : ({ s with badWords := [] } : State).eccFault true a.toNat n = false := by simp [State.eccFault]
    simp only [State.accessFault, hecc, hecc']
    rfl
  rw [hsame, hpass]

theorem byteOf_eq_ofNat (v : Word) (k : Nat) : byteOf v k = BitVec.ofNat 8 (v.toNat / 2 ^ (8 * k)) := by
  apply BitVec.eq_of_toNat_eq
  rw [byteOf, BitVec.extractLsb'_toNat, BitVec.toNat_ofNat, Nat.shiftRight_eq_div_pow]

@[simp] theorem State.hartAt_mapHart_other (s : State) (f : Hart → Hart) :
    (s.mapHart f).hartAt s.cur.other = s.hartAt s.cur.other := by
  obtain ⟨cfg, cur, _⟩ := s
  cases cur <;> rfl

/-- A change of the executing hart that counts like retiring `len` bytes, and goes on. -/
theorem retires_mapHart {s : State} {f : Hart → Hart} {len : Nat} {e : List Nat} (hregs : (f s.hart).regs = s.hart.regs)
    (hpc : (f s.hart).pc = s.hart.pc + BitVec.ofNat 32 len) (hctr : (f s.hart).ctr = (s.hart.retire len e).ctr) :
    Retires s (s.mapHart f) len where
  registers r := by
    rw [State.reg_mapHart]
    exact Hart.reg_congr hregs r
  pc := by rw [State.pc_mapHart, hpc]; rfl
  counted := by
    rw [State.hart_mapHart]
    exact (s.hart.retire_counted len e).congr hctr

theorem State.retire_retires {s u : State} (h : u.hart = s.hart) (len : Nat) (e : List Nat) :
    Retires s (u.retire len e) len where
  registers r := by
    rw [State.retire, State.reg_mapHart, h]
    exact Hart.reg_congr rfl r
  pc := by
    rw [State.retire, State.pc_mapHart, h]
    rfl
  counted := by
    rw [State.retire, State.hart_mapHart, h]
    exact s.hart.retire_counted len e

/-- The two harts after a store into the DCCM. -/
theorem State.retire_dccmStore (s : State) (a v : Word) (n len : Nat) (e : List Nat) :
    (s.dccmStore a v n).retire len e =
      { State.mapHartAt (State.mapHart { s with badWords := (s.ccmWrite a v n).badWords } fun h => h.retire len e)
          s.cur.other (fun h => h.seeStore a.toNat n) with mem := memWriteN s.mem a v n } := by
  obtain ⟨cfg, cur, _⟩ := s
  cases cur <;> rfl

theorem State.mapHartAt_congr (s : State) (h : HartId) (f g : Hart → Hart) (e : f (s.hartAt h) = g (s.hartAt h)) :
    s.mapHartAt h f = s.mapHartAt h g := by
  have hget : f (s.harts.get h) = g (s.harts.get h) := e
  rw [State.mapHartAt, State.mapHartAt, hget]

/-- Both harts changed, each by what its own function makes of it. -/
theorem State.mapHarts_congr (s : State) (m : List Host.Cell) {f f' g g' : Hart → Hart} (hf : f s.hart = f' s.hart)
    (hg : g (s.hartAt s.cur.other) = g' (s.hartAt s.cur.other)) :
    ({ State.mapHartAt (s.mapHart f) s.cur.other g with mem := m } : State) =
      { State.mapHartAt (s.mapHart f') s.cur.other g' with mem := m } := by
  rw [s.mapHart_congr f f' hf, State.mapHartAt_congr _ s.cur.other g g' (by rw [State.hartAt_mapHart_other]; exact hg)]

/-- What a store instruction that reaches the DCCM leaves; the marks of double-bit errors are stated apart. -/
theorem storesDccm_retire (s : State) {n : Nat} (a v : Word) (hle : n ≤ 4) (len : Nat) (e : List Nat) :
    StoresDccm { s with badWords := (s.ccmWrite a v n).badWords } ((s.dccmStore a v n).retire len e) len a n v where
  retires := State.retire_retires (s := { s with badWords := (s.ccmWrite a v n).badWords }) (s.dccmStore_hart a v n) len e
  bytes k hk := by
    rw [← byteOf_eq_ofNat]
    exact memRead_memWriteN_inside s.mem a v n k hk (by omega)
  outside x hx := memRead_memWriteN_outside s.mem a v n x hx
  seen := by
    have hother : ((s.dccmStore a v n).retire len e).hartAt s.cur.other = (s.hartAt s.cur.other).seeStore a.toNat n :=
      (State.hartAt_mapHart_other (s.dccmStore a v n) _).trans (s.dccmStore_other a v n)
    exact (congrArg Hart.reservation hother).trans (Hart.seeStore_reservation _ _ _)
  rest := by
    have hother : ((s.dccmStore a v n).retire len e).hartAt s.cur.other = (s.hartAt s.cur.other).seeStore a.toNat n :=
      (State.hartAt_mapHart_other (s.dccmStore a v n) _).trans (s.dccmStore_other a v n)
    have hhart : ((s.dccmStore a v n).retire len e).hart = s.hart.retire len e := by
      rw [State.retire, State.hart_mapHart, State.dccmStore_hart]
    rw [hhart, hother]
    exact (s.retire_dccmStore a v n len e).trans
      (State.mapHarts_congr { s with badWords := (s.ccmWrite a v n).badWords } _ rfl (Hart.seeStore_frame _ _ _))

/-- Settles O27: the store is let in, writes its bytes, and refreshes the check bits of the words it touches. -/
theorem storesToDccm : Obligations.StoresToDccm := by
  unfold Obligations.StoresToDccm
  intro s i len rs rb off n hstore a
  obtain ⟨hpos, hle, hexec⟩ := hstore.exec_eq
  have run (h : s.accessFault true (s.reg rb) a n = none) (hin : inDccm s.cfg a.toNat = true) :
      exec i s = .next ((s.dccmStore a (s.reg rs) n).retire len (s.storeEvents a n)) := by
    rw [hexec, State.storeInstr_passes h, State.writeChecked, if_pos hin]
  refine ⟨fun access => ?sound, fun hc hbase hin hskip => ?unreported⟩
  case sound =>
    refine ⟨_, run (access.passes hpos hle true) (access.inside 0 hpos), ?_⟩
    have hbad := s.ccmWrite_badWords_of_sound a (s.reg rs) hpos hle access.sound
    have h := storesDccm_retire s a (s.reg rs) hle len (s.storeEvents a n)
    rwa [hbad] at h
  case unreported =>
    exact ⟨_, run (State.accessFault_dccm_unreported hc hpos hle hbase hin hskip) (hin 0 hpos),
      fun w => s.mem_ccmWrite_badWords a (s.reg rs) hpos hle w, storesDccm_retire s a (s.reg rs) hle len _⟩

/-! ## Stores to the bus -/

/-- What the hart sees of a byte once the transactions of a store wait behind the older ones (R272, R274). -/
theorem State.viewByte_busStore (s : State) (a v : Word) {n : Nat} (hn : n ≤ 4) (x : Word) :
    (s.busStore s.cur a v n).viewByte s.cur x =
      if (x - a).toNat < n then byteOf v (x - a).toNat else s.viewByte s.cur x := by
  have hpieces := newestAt_storePieces s.cfg.bus a v x n (s.sideEffectAt s.cur a.toNat) (by omega)
  rw [State.viewByte, State.viewByte, State.busStore, State.hartAt_mapHartAt_same, newestAt_append]
  cases hnew : newestAt x (storePieces s.cfg.bus a v n (s.sideEffectAt s.cur a.toNat)) with
  | none =>
    rw [hnew] at hpieces
    split at hpieces
    · cases hpieces
    · next hout =>
      rw [if_neg hout]
      rfl
  | some p =>
    rw [hnew] at hpieces
    split at hpieces
    · next hin =>
      rw [if_pos hin]
      exact Option.some.inj hpieces
    · cases hpieces

theorem State.viewByte_retire (s : State) (len : Nat) (e : List Nat) (x : Word) :
    (s.retire len e).viewByte s.cur x = s.viewByte s.cur x := by
  have hhart : (s.retire len e).hartAt s.cur = s.hart.retire len e := State.hart_mapHart s _
  exact State.viewByte_congr (s := s) (t := s.retire len e) (by rw [hhart]; rfl) rfl x

/-- Settles O28: the transactions enter the buffer, where the hart sees them. -/
theorem storesToBus : Obligations.StoresToBus := by
  unfold Obligations.StoresToBus
  intro s i len rs rb off n hstore access
  obtain ⟨hpos, hle, hexec⟩ := hstore.exec_eq
  obtain ⟨hdccm, hpic, -⟩ := coreLocal_of_outside access.build access.outside
  let a := s.reg rb + off
  let t := (s.busStore s.cur a (s.reg rs) n).retire len (s.storeEvents a n)
  have hrun : exec i s = .next t := by
    rw [hexec, State.storeInstr_passes (access.passes true), State.writeChecked, hdccm, hpic]
    rfl
  have hmap : t = s.mapHart fun h => ({ h with
      buffer := h.buffer ++ storePieces s.cfg.bus a (s.reg rs) n (s.sideEffectAt s.cur a.toNat) } : Hart).retire len
        (s.storeEvents a n) := State.mapHart_mapHart s _ _
  have hview (x : Word) : t.viewByte s.cur x =
      if (x - a).toNat < n then byteOf (s.reg rs) (x - a).toNat else s.viewByte s.cur x := by
    rw [← s.viewByte_busStore a (s.reg rs) hle]
    exact State.viewByte_retire (s.busStore s.cur a (s.reg rs) n) len (s.storeEvents a n) x
  refine ⟨t, hrun, ?_⟩
  have hbuffer : t.hart.buffer = s.hart.buffer ++ storePieces s.cfg.bus a (s.reg rs) n (s.sideEffectAt s.cur a.toNat) := by
    rw [hmap, State.hart_mapHart]
    rfl
  refine ⟨?_, fun k hk => ?_, fun x hx => ?_, hbuffer, fun haligned => ?_, rfl, ?_⟩
  · rw [hmap]
    exact retires_mapHart rfl rfl rfl
  · have hoffset : (a + BitVec.ofNat 32 k - a).toNat = k := by
      rw [add_sub_cancel_left, BitVec.toNat_ofNat, Nat.mod_eq_of_lt (by omega)]
    rw [hview, hoffset, if_pos hk, byteOf_eq_ofNat]
  · refine (hview x).trans (if_neg fun hlt => hx _ hlt ?_)
    rw [BitVec.ofNat_toNat, BitVec.setWidth_eq, add_sub_cancel]
  · rw [hbuffer, storePieces_aligned _ _ _ _ _ haligned]
  · rw [hmap, State.hart_mapHart]
    rfl

end Sys2Proof.Machine
end

section
/-! PROOFS. The fences (20_memory.md R279 to R281) and the atomic instructions (42_a.md). -/

namespace Sys2Proof.Machine

/-! ## Fences -/

theorem regionBit_self (bit : Word → Bool) (m : Word) (free : Bool) : regionBit bit m m free = bit m := by
  simp [regionBit]

/-- The executing hart after a fence whose stores the platform answers. -/
theorem State.fenceOp_ram {s : State} (hb : s.BufferAnswered s.cur) :
    s.fenceOp s.cur = (s.afterDrain s.cur (storesInto s.mem s.hart.buffer) s.hart.nmi []).mapHart
      fun h => { h with seen := { h.seen with data := s.shared.mrac } } := by
  rw [State.fenceOp, s.drainAll_ram s.cur hb]
  rfl

/-- The hart after a fence instruction, where `k` is what it does to the attributes that the hart has seen. -/
def Hart.fenced (k : SeenAttrs → SeenAttrs) (e : List Nat) (h : Hart) : Hart := ({ h with seen := k h.seen } : Hart).retire 4 e

/-- A fence instruction whose stores the platform answers. -/
def State.fenced (s : State) (k : SeenAttrs → SeenAttrs) (e : List Nat) : State :=
  (s.afterDrain s.cur (storesInto s.mem s.hart.buffer) s.hart.nmi []).mapHart (Hart.fenced k e)

/-- What `fence` and `fence.i` do to the attributes that the hart has seen (R101). -/
def seenByFence (m : Word) (x : SeenAttrs) : SeenAttrs := { x with data := m }

def seenByFenceI (m : Word) (_ : SeenAttrs) : SeenAttrs := ⟨m, m⟩

theorem State.mapHart_withICache (s : State) (c : ICache) (f : Hart → Hart) :
    State.mapHart { s with icache := c } f = { s.mapHart f with icache := c } := rfl

theorem State.retire_fenceOp {s : State} (hb : s.BufferAnswered s.cur) (e : List Nat) :
    (s.fenceOp s.cur).retire 4 e = s.fenced (seenByFence s.shared.mrac) e := by
  rw [State.fenceOp_ram hb]
  exact State.mapHart_mapHart _ _ _

theorem State.retire_fenceIOp {s : State} (hb : s.BufferAnswered s.cur) (e : List Nat) :
    (s.fenceIOp s.cur).retire 4 e =
      { s.fenced (seenByFenceI s.shared.mrac) e with icache := s.icache.invalidateAll } := by
  have hdata := State.fenceOp_ram hb
  have hboth : ((s.fenceOp s.cur).mapHartAt s.cur fun x => { x with seen := { x.seen with fetch := s.shared.mrac } }) =
      (s.afterDrain s.cur (storesInto s.mem s.hart.buffer) s.hart.nmi []).mapHart
        fun h => { h with seen := ⟨s.shared.mrac, s.shared.mrac⟩ } := by
    rw [hdata]
    exact State.mapHartAt_mapHartAt _ _ _ _
  rw [State.fenceIOp, hboth, State.retire, State.mapHart_withICache, State.mapHart_mapHart]
  rfl

theorem State.hart_fenced (s : State) (k : SeenAttrs → SeenAttrs) (e : List Nat) :
    (s.fenced k e).hart = Hart.fenced k e { s.hart with buffer := [] } :=
  State.hart_mapHart_afterDrain s _ _ [] _

/-- What a fence instruction leaves. -/
theorem State.fenced_leaves {s : State} (hc : configOk s.cfg = true) (hb : s.BufferAnswered s.cur)
    (k : SeenAttrs → SeenAttrs) (e : List Nat) :
    let t := s.fenced k e
    Retires s t 4 ∧ t.hart.buffer = [] ∧ t.hart.seen = k s.hart.seen ∧
      (∀ x : Word, memRead t.mem x.toNat = s.viewByte s.cur x) ∧
      { t with mem := s.mem } =
        s.mapHart fun h => { h with pc := t.hart.pc, ctr := t.hart.ctr, buffer := t.hart.buffer, seen := t.hart.seen } := by
  intro t
  have hhart : t.hart = Hart.fenced k e { s.hart with buffer := [] } := s.hart_fenced k e
  rw [hhart]
  refine ⟨⟨fun r => ?_, ?_, ?_⟩, rfl, rfl, fun x => ?_, ?_⟩
  · rw [State.reg, hhart]
    exact Hart.reg_congr rfl r
  · rw [State.pc, hhart]
    rfl
  · rw [hhart]
    exact (s.hart.retire_counted 4 e).congr rfl
  · have hmem : t.mem = (s.drainAll s.cur).mem := by
      rw [s.drainAll_ram s.cur hb]
      rfl
    rw [hmem, s.memRead_drainAll s.cur x hb (hb.size_le hc)]
  · exact State.mapHart_afterDrain_rest s _ _ [] rfl

/-- The attributes of `mrac` apply where the hart has seen them. -/
theorem State.sideEffectAt_of_seen {t : State} {h : HartId} (hseen : (t.hartAt h).seen.data = t.shared.mrac) (a : Nat) :
    t.sideEffectAt h a = (!inIccm t.cfg a && sideEffect t.shared.mrac a) := by
  rw [State.sideEffectAt, hseen, regionBit_self]

theorem State.cacheableAt_of_seen {t : State} {h : HartId} (hseen : (t.hartAt h).seen.fetch = t.shared.mrac) (a : Nat) :
    t.cacheableAt h a = cacheable t.shared.mrac a := by
  rw [State.cacheableAt, hseen, regionBit_self]

/-- Settles O32: the stores drain, the attributes of `mrac` are taken over, and the instruction is counted. -/
theorem fences : Obligations.Fences := by
  unfold Obligations.Fences
  intro s hc hb
  refine ⟨fun fm pred succ rs1 rd => ?fence, fun imm rs1 rd => ?fenceI⟩
  case fence =>
    obtain ⟨hretires, hbuffer, hseen, hmem, hrest⟩ := State.fenced_leaves hc hb (seenByFence s.shared.mrac) [21]
    exact ⟨_, congrArg Host.Outcome.next (State.retire_fenceOp hb [21]), hretires, hbuffer, hmem,
      State.sideEffectAt_of_seen (congrArg SeenAttrs.data hseen), hrest⟩
  case fenceI =>
    obtain ⟨⟨hregs, hpc, hcount⟩, hbuffer, hseen, hmem, hrest⟩ :=
      State.fenced_leaves hc hb (seenByFenceI s.shared.mrac) [22]
    let t : State := { s.fenced (seenByFenceI s.shared.mrac) [22] with icache := s.icache.invalidateAll }
    exact ⟨t, congrArg Host.Outcome.next (State.retire_fenceIOp hb [22]), ⟨hregs, hpc, hcount⟩, hbuffer, hmem, fun _ _ => rfl,
      State.sideEffectAt_of_seen (t := t) (congrArg SeenAttrs.data hseen),
      State.cacheableAt_of_seen (t := t) (congrArg SeenAttrs.fetch hseen),
      congrArg (fun x : State => { x with icache := s.icache }) hrest⟩

end Sys2Proof.Machine
end

section
/-! PROOFS. The atomic instructions (42_a.md): the implicit fence leaves the DCCM and the other hart, and each instruction does its
access on the state after it. -/

namespace Sys2Proof.Machine

/-! ## Drained stores stay on the bus -/

/-- Stores that reach the bus leave the bytes that no accepted store writes. -/
theorem State.memRead_performStores (h : HartId) (x : Nat) : ∀ (l : List PendingStore) (s : State),
    (∀ p ∈ l, s.busAnswers .write p.addr.toNat p.size = true → ∀ i, i < p.size → x ≠ addrAt p.addr i) →
    memRead (l.foldl (State.performStore h) s).mem x = memRead s.mem x
  | [], _, _ => rfl
  | p :: rest, s, hx => by
    have hfirst : memRead (s.performStore h p).mem x = memRead s.mem x := by
      rcases State.performStore_cases h s p with ⟨hanswer, hp⟩ | ⟨-, hp⟩ <;> rw [hp]
      · exact memRead_memWriteN_outside s.mem p.addr p.data p.size x (hx p List.mem_cons_self hanswer)
      · rfl
    have hsame (q : PendingStore) : (s.performStore h p).busAnswers .write q.addr.toNat q.size =
        s.busAnswers .write q.addr.toNat q.size := by
      rcases State.performStore_cases h s p with ⟨-, hp⟩ | ⟨-, hp⟩ <;> rw [hp] <;> rfl
    rw [List.foldl_cons, State.memRead_performStores h x rest _ fun q hq hanswer =>
      hx q (List.mem_cons_of_mem p hq) (hsame q ▸ hanswer), hfirst]

theorem State.memRead_drain (s : State) (h : HartId) (n x : Nat)
    (hx : ∀ p ∈ (s.hartAt h).buffer, s.busAnswers .write p.addr.toNat p.size = true → ∀ i, i < p.size → x ≠ addrAt p.addr i) :
    memRead (s.drain h n).mem x = memRead s.mem x := by
  unfold State.drain
  split
  · rfl
  · next p rest hb =>
    rw [State.mapHartAt_mem]
    exact State.memRead_performStores h x _ s fun q hq => hx q (hb ▸ List.mem_of_mem_take hq)

/-- Draining the buffer leaves the core's own regions. -/
theorem State.memRead_drainAll_dRegion {s : State} (hc : configOk s.cfg = true) (h : HartId) {x : Nat}
    (hx : dRegion s.cfg x = true) : memRead (s.drainAll h).mem x = memRead s.mem x := by
  refine s.memRead_drain h _ x fun p _ hanswer i hi hxi => ?_
  have haccept := State.busAnswers_accepts hanswer
  have hend := busAccepts_size hc .write _ _ haccept
  have haddr : addrAt p.addr i = p.addr.toNat + i := addrAt_of_lt p.addr i (by omega)
  have hout := busAccepts_outside hc haccept (x := x) (by omega) (by omega)
  rw [hx] at hout
  cases hout

/-! ## The state on which an atomic acts -/

theorem AtomicAccess.dRegion_addrAt {s : State} {a : Word} (h : AtomicAccess s a) {k : Nat} (hk : k < 4) :
    dRegion s.cfg (addrAt a k) = true := by
  have haligned := h.aligned
  have hlt := a.isLt
  have hregion : regionOf (addrAt a k) = regionOf a.toNat := by
    rw [addrAt_of_lt a k (by omega), regionOf, regionOf]
    omega
  have hown := inDccm_dRegion h.build h.inside
  unfold dRegion at hown ⊢
  rwa [hregion]

/-- The implicit fence leaves the word that an atomic accesses. -/
theorem AtomicAccess.memReadWord_fenceOp {s : State} {a : Word} (h : AtomicAccess s a) (k : HartId) :
    memReadWord (s.fenceOp k).mem a = memReadWord s.mem a :=
  congrArg (BitVec.ofNat 32) (memReadN_congr s.mem (s.fenceOp k).mem a 4 fun _ hi =>
    State.memRead_drainAll_dRegion h.build k (h.dRegion_addrAt hi))

/-- The implicit fence leaves what the checks of an atomic look at. -/
theorem AtomicAccess.fenceOp {s : State} {a : Word} (h : AtomicAccess s a) (k : HartId) : AtomicAccess (s.fenceOp k) a where
  build := (s.fenceOp_cfg k).symm ▸ h.build
  atomics := (s.fenceOp_cfg k).symm ▸ h.atomics
  aligned := h.aligned
  inside := (s.fenceOp_cfg k).symm ▸ h.inside
  sound := (s.fenceOp_badWords k).symm ▸ h.sound

theorem State.fenceOp_hart (s : State) : (s.fenceOp s.cur).hart = { s.hart with
    nmi := ((s.drainAll s.cur).hartAt s.cur).nmi, buffer := [], seen := { s.hart.seen with data := s.shared.mrac } } := by
  rw [State.hart, State.fenceOp_cur]
  exact s.fenceOp_hartAt s.cur

/-- What an instruction that acts on the fenced state leaves in the executing hart. -/
theorem counted_after_fence {s : State} {h : Hart} {len : Nat} {e : List Nat}
    (hctr : h.ctr = ((s.fenceOp s.cur).hart.retire len e).ctr) : CountedOnce s.hart h := by
  rw [State.fenceOp_hart] at hctr
  exact (s.hart.retire_counted len e).congr hctr

/-! ## `lr.w` -/

theorem State.lrInstr_passes {s : State} {rs1 : RegIdx} (h : AtomicAccess s (s.reg rs1)) (bits : Word) (rd : RegIdx) :
    s.lrInstr bits rd rs1 = ((s.fenceOp s.cur).mapHart fun h => { h with reservation := some (s.reg rs1) }).writeBack 4 [52]
      rd (memReadWord s.mem (s.reg rs1)) := by
  have hpass := (h.fenceOp s.cur).passes false
  rw [State.lrInstr, if_pos h.built]
  simp only [State.implicitFence, hpass]
  rw [h.memReadWord_fenceOp]

/-- Settles O33: the word is read and reserved on the state after the fence. -/
theorem loadReserved : Obligations.LoadReserved := by
  unfold Obligations.LoadReserved
  intro s rd rs1 aq rl access
  let d := s.fenceOp s.cur
  have hhart : d.hart = _ := s.fenceOp_hart
  have hrun : exec (.lrW rd rs1 aq rl) s = .next (d.mapHart fun h =>
      (({ h with reservation := some (s.reg rs1) } : Hart).retire 4 [52]).setReg rd (memReadWord s.mem (s.reg rs1))) :=
    congrArg Host.Outcome.next ((State.lrInstr_passes access _ rd).trans (State.mapHart_mapHart d _ _))
  refine ⟨_, hrun, fun r => ?_, ?_, ?_, ?_, rfl, State.mapHart_congr d _ _ ?_⟩
  · rw [State.reg_mapHart, Hart.reg_setReg, hhart]
    rfl
  · rw [State.pc_mapHart, Hart.setReg_pc, hhart]
    rfl
  · refine counted_after_fence (len := 4) (e := [52]) ?_
    rw [State.hart_mapHart, Hart.setReg_ctr]
    rfl
  · rw [State.hart_mapHart, Hart.setReg_reservation]
    rfl
  · rw [State.hart_mapHart]
    unfold Hart.setReg
    split <;> rfl

/-! ## An atomic's store -/

theorem ccmWrite_badWords_atomic {d : State} {a : Word} (h : AtomicAccess d a) (v : Word) :
    (d.ccmWrite a v 4).badWords = d.badWords := by
  refine d.ccmWrite_badWords_of_sound a v (by decide) (by decide) fun k hk => ?_
  have haligned := h.aligned
  have hword : wordAddr (a.toNat + k) = a.toNat := by unfold wordAddr; omega
  rw [hword]
  exact h.sound

theorem State.dccmStore_cur_hartAt_other (d : State) (a v : Word) (n : Nat) (f : Hart → Hart) :
    ((d.dccmStore a v n).mapHart f).hartAt d.cur.other = (d.hartAt d.cur.other).seeStore a.toNat n :=
  (State.hartAt_mapHart_other (d.dccmStore a v n) f).trans (d.dccmStore_other a v n)

/-- What an atomic's store of the word at `a`, and a change of the executing hart after it, leave of the state `d`. -/
structure StoresAtomically (d t : State) (a v : Word) : Prop where
  word : memReadWord t.mem a = v
  outside : SameMemoryOutside d t a 4
  other : t.hartAt d.cur.other = (d.hartAt d.cur.other).seeStore a.toNat 4
  rest : { t with mem := d.mem, harts := d.harts } = d

theorem storesAtomically_mapHart {d : State} {a : Word} (h : AtomicAccess d a) (v : Word) (f : Hart → Hart) :
    StoresAtomically d ((d.dccmStore a v 4).mapHart f) a v where
  word := memReadWord_memWriteN d.mem a v
  outside x hx := memRead_memWriteN_outside d.mem a v 4 x hx
  other := d.dccmStore_cur_hartAt_other a v 4 f
  rest := by
    have hbad : ((d.dccmStore a v 4).mapHart f).badWords = d.badWords := ccmWrite_badWords_atomic h v
    change ({ d with badWords := ((d.dccmStore a v 4).mapHart f).badWords } : State) = d
    rw [hbad]

/-- The other hart's reservation after an atomic's store. -/
theorem StoresAtomically.reservation {d t : State} {a v : Word} (h : StoresAtomically d t a v) {w : Word}
    (hw : (d.hartAt d.cur.other).reservation = some w) : (t.hartAt d.cur.other).reservation =
      if a.toNat < w.toNat + 4 ∧ w.toNat < a.toNat + 4 then none else some w := by
  rw [h.other, Hart.seeStore_reservation, hw]

theorem StoresAtomically.other_frame {d t : State} {a v : Word} (h : StoresAtomically d t a v) :
    { t.hartAt d.cur.other with reservation := none } = { d.hartAt d.cur.other with reservation := none } := by
  rw [h.other, Hart.seeStore_frame]

/-! ## `sc.w` -/

theorem State.scInstr_passes {s : State} {rs1 : RegIdx} (h : AtomicAccess s (s.reg rs1)) (bits : Word) (rd rs2 : RegIdx) :
    s.scInstr bits rd rs1 rs2 =
      let d := s.fenceOp s.cur
      let done := s.hart.reservation == some (s.reg rs1)
      (((if done then d.dccmStore (s.reg rs1) (s.reg rs2) 4 else d).mapHart Hart.clearReservation).writeBack 4 [53] rd
        (if done then 0 else 1)) := by
  have hpass := (h.fenceOp s.cur).passes true
  have hres : (s.fenceOp s.cur).hart.reservation = s.hart.reservation := by rw [State.fenceOp_hart]
  rw [State.scInstr, if_pos h.built]
  simp only [State.implicitFence, hpass, hres]

/-- The executing hart after `sc.w`. -/
def Hart.afterSc (rd : RegIdx) (v : Word) (h : Hart) : Hart := (h.clearReservation.retire 4 [53]).setReg rd v

/-- Settles O34: whether the reservation is on the word decides what is stored and what `rd` gets. -/
theorem storeConditional : Obligations.StoreConditional := by
  unfold Obligations.StoreConditional
  intro s rd rs1 rs2 aq rl access a d
  have hcur : d.cur = s.cur := s.fenceOp_cur s.cur
  have hhart : d.hart = _ := s.fenceOp_hart
  have hother : d.hartAt d.cur.other = s.hartAt s.cur.other := by rw [hcur]; exact s.fenceOp_hartAt_other s.cur
  have hafter {t : State} {v : Word} (ht : t.hart = d.hart.afterSc rd v) : t.pc = s.pc + 4 ∧ CountedOnce s.hart t.hart ∧
      t.hart.reservation = none ∧ Writes s t rd v ∧
      t.hart = { d.hart with regs := t.hart.regs, pc := t.hart.pc, ctr := t.hart.ctr, reservation := none } := by
    refine ⟨?_, ?_, ?_, fun r => ?_, ?_⟩
    · rw [State.pc, ht, Hart.afterSc, Hart.setReg_pc, hhart]
      rfl
    · refine counted_after_fence (len := 4) (e := [53]) ?_
      rw [ht, Hart.afterSc, Hart.setReg_ctr]
      rfl
    · rw [ht, Hart.afterSc, Hart.setReg_reservation]
      rfl
    · rw [State.reg, ht, Hart.afterSc, Hart.reg_setReg, hhart]
      rfl
    · rw [ht]
      unfold Hart.afterSc Hart.setReg
      split <;> rfl
  have hexec : exec (.scW rd rs1 rs2 aq rl) s = .next _ := congrArg Host.Outcome.next (State.scInstr_passes access _ rd rs2)
  by_cases hdone : s.hart.reservation = some a
  · let t := (d.dccmStore a (s.reg rs2) 4).mapHart (Hart.afterSc rd 0)
    have hrun : exec (.scW rd rs1 rs2 aq rl) s = .next t := by
      have hb : (s.hart.reservation == some (s.reg rs1)) = true := hdone ▸ beq_self_eq_true _
      rw [hexec]
      simp only [hb, if_true]
      exact congrArg Host.Outcome.next (State.mapHart_mapHart _ _ _)
    have hstore : StoresAtomically d t a (s.reg rs2) := storesAtomically_mapHart (access.fenceOp s.cur) _ _
    have ht : t.hart = d.hart.afterSc rd 0 := by rw [State.hart_mapHart, State.dccmStore_hart]
    obtain ⟨hpc, hcount, hres, hwrites, hframe⟩ := hafter ht
    have hlost (w : Word) := hstore.reservation (w := w)
    have hsame := hstore.other_frame
    rw [hother] at hlost hsame
    rw [hcur] at hlost hsame
    exact ⟨t, hrun, hpc, hcount, hres, (if_pos hdone).mpr ⟨hwrites, hstore.word, hstore.outside, fun w => hlost w⟩, hstore.rest,
      hsame, hframe⟩
  · let t := d.mapHart (Hart.afterSc rd 1)
    have hrun : exec (.scW rd rs1 rs2 aq rl) s = .next t := by
      have hb : (s.hart.reservation == some (s.reg rs1)) = false := beq_eq_false_iff_ne.mpr hdone
      rw [hexec]
      simp only [hb, Bool.false_eq_true, if_false]
      exact congrArg Host.Outcome.next (State.mapHart_mapHart _ _ _)
    have ht : t.hart = d.hart.afterSc rd 1 := State.hart_mapHart _ _
    obtain ⟨hpc, hcount, hres, hwrites, hframe⟩ := hafter ht
    have hsame : t.hartAt s.cur.other = s.hartAt s.cur.other :=
      (hcur ▸ (State.hartAt_mapHart_other d _).trans hother :)
    exact ⟨t, hrun, hpc, hcount, hres, (if_neg hdone).mpr ⟨hwrites, rfl, hsame⟩, rfl, by rw [hsame], hframe⟩

end Sys2Proof.Machine
end

section
/-! PROOFS. The atomic memory operations, and the atomics that trap. -/
namespace Sys2Proof.Machine

/-! ## The AMOs -/

theorem State.amoInstr_passes {s : State} {rs1 : RegIdx} (h : AtomicAccess s (s.reg rs1)) (bits : Word) (rd rs2 : RegIdx)
    (op : Word → Word → Word) : s.amoInstr bits rd rs1 rs2 op =
      let old := memReadWord s.mem (s.reg rs1)
      ((s.fenceOp s.cur).dccmStore (s.reg rs1) (op old (s.reg rs2)) 4).writeBack 4 [51] rd old := by
  have hpass := (h.fenceOp s.cur).passes true
  rw [State.amoInstr, if_pos h.built]
  simp only [State.implicitFence, hpass]
  rw [h.memReadWord_fenceOp]

/-- The executing hart after an AMO. -/
def Hart.afterAmo (rd : RegIdx) (v : Word) (h : Hart) : Hart := (h.retire 4 [51]).setReg rd v

/-- Settles O35: the nine operations are one instruction with another word function each. -/
theorem atomicMemoryOperations : Obligations.AtomicMemoryOperations := by
  unfold Obligations.AtomicMemoryOperations
  intro isAmo
  have amo {i : RegIdx → RegIdx → RegIdx → Bool → Bool → Instr} {f5 : BitVec 5} (op : Word → Word → Word)
      {op' : Word → Word → Word} (hop : ∀ a b, op a b = op' a b)
      (henc : ∀ rd rs1 rs2 aq rl, encode (i rd rs1 rs2 aq rl) = .word (wordA f5 aq rl rs2 rs1 rd))
      (hexec : ∀ rd rs1 rs2 aq rl s, exec (i rd rs1 rs2 aq rl) s =
        .next (s.amoInstr (encode (i rd rs1 rs2 aq rl)).bits rd rs1 rs2 op)) : isAmo i f5 op' := by
    intro rd rs1 rs2 aq rl
    refine ⟨henc rd rs1 rs2 aq rl, ?_⟩
    intro s access a d
    have hcur : d.cur = s.cur := s.fenceOp_cur s.cur
    have hhart : d.hart = _ := s.fenceOp_hart
    have hother : d.hartAt d.cur.other = s.hartAt s.cur.other := by rw [hcur]; exact s.fenceOp_hartAt_other s.cur
    let old := memReadWord s.mem a
    let new := op old (s.reg rs2)
    let t := (d.dccmStore a new 4).mapHart (Hart.afterAmo rd old)
    have hrun : exec (i rd rs1 rs2 aq rl) s = .next t :=
      (hexec rd rs1 rs2 aq rl s).trans (congrArg Host.Outcome.next (State.amoInstr_passes access _ rd rs2 op))
    have hstore : StoresAtomically d t a new := storesAtomically_mapHart (access.fenceOp s.cur) new _
    have ht : t.hart = d.hart.afterAmo rd old := by rw [State.hart_mapHart, State.dccmStore_hart]
    have hlost (w : Word) := hstore.reservation (w := w)
    have hsame := hstore.other_frame
    rw [hother] at hlost hsame
    rw [hcur] at hlost hsame
    refine ⟨t, hrun, fun r => ?_, ?_, ?_, hstore.word.trans (hop _ _), hstore.outside, fun w => hlost w, hstore.rest, hsame, ?_⟩
    · rw [State.reg, ht, Hart.afterAmo, Hart.reg_setReg, hhart]
      rfl
    · rw [State.pc, ht, Hart.afterAmo, Hart.setReg_pc, hhart]
      rfl
    · refine counted_after_fence (len := 4) (e := [51]) ?_
      rw [ht, Hart.afterAmo, Hart.setReg_ctr]
    · rw [ht]
      unfold Hart.afterAmo Hart.setReg
      split <;> rfl
  have hsigned (a : Word) : BitVec.ofInt 32 a.toInt = a := BitVec.ofInt_toInt
  have hunsigned (a : Word) : BitVec.ofNat 32 a.toNat = a := BitVec.ofNat_toNat 32 a ▸ BitVec.setWidth_eq a
  refine ⟨?swap, ?add, ?xor, ?and, ?or, ?min, ?max, ?minu, ?maxu⟩
  case swap => exact amo (fun _ v => v) (fun _ _ => rfl) (fun _ _ _ _ _ => rfl) fun _ _ _ _ _ _ => rfl
  case add => exact amo (fun t v => t + v) add_eq_ofNat (fun _ _ _ _ _ => rfl) fun _ _ _ _ _ _ => rfl
  case xor => exact amo (fun t v => t ^^^ v) (fun _ _ => rfl) (fun _ _ _ _ _ => rfl) fun _ _ _ _ _ _ => rfl
  case and => exact amo (fun t v => t &&& v) (fun _ _ => rfl) (fun _ _ _ _ _ => rfl) fun _ _ _ _ _ _ => rfl
  case or => exact amo (fun t v => t ||| v) (fun _ _ => rfl) (fun _ _ _ _ _ => rfl) fun _ _ _ _ _ _ => rfl
  case min =>
    exact amo (pickLess lessSigned) (pickLess_eq_min _ _ hsigned lessSigned_eq_decide) (fun _ _ _ _ _ => rfl) fun _ _ _ _ _ _ => rfl
  case max =>
    exact amo (pickGreater lessSigned) (pickGreater_eq_max _ _ hsigned lessSigned_eq_decide) (fun _ _ _ _ _ => rfl)
      fun _ _ _ _ _ _ => rfl
  case minu =>
    exact amo (pickLess lessUnsigned) (pickLess_eq_min _ _ hunsigned lessUnsigned_eq_decide) (fun _ _ _ _ _ => rfl)
      fun _ _ _ _ _ _ => rfl
  case maxu =>
    exact amo (pickGreater lessUnsigned) (pickGreater_eq_max _ _ hunsigned lessUnsigned_eq_decide) (fun _ _ _ _ _ => rfl)
      fun _ _ _ _ _ _ => rfl

/-! ## When an instruction runs at once -/

/-- An instruction that waits for nothing, sends no load, does not break into Debug Mode and is not split is one `exec`. -/
theorem State.runInstr_eq_exec {s : State} {i : Instr} (hwaits : s.waitsForBus i = false) (hsends : s.sendsLoad i = false)
    (hbreaks : (s.breaksIntoDebug i && s.busBusy s.cur) = false) (hsplit : s.splitsNow i = none) :
    s.runInstr i = mapNext (exec i s) fun t => t.begun.complete := by
  rw [State.runInstr, hwaits, hsends, hbreaks, hsplit]
  rfl

/-- An atomic is neither a load or store that can be split nor a breakpoint, halts no hart, and drains the buffer where atomics are built;
its checks are those of a store or of a load at `x[rs1]`, after the fence. -/
structure IsAtomic (i : Instr) (rs1 : RegIdx) (isStore : Bool) : Prop where
  noAccess : memOp i = none
  noBreak : i ≠ .ebreak ∧ i ≠ .cEbreak
  noHalt : ∀ s : State, s.haltsByFirmware i = false
  drains : ∀ c, Instr.drains c i = atomicsBuilt c
  illegal : ∀ s : State, atomicsBuilt s.cfg = false → exec i s = .next (s.exception .illegal (encode i).bits)
  faults : ∀ (s : State) (c : Cause), atomicsBuilt s.cfg = true → (s.fenceOp s.cur).atomicFault isStore (s.reg rs1) = some c →
    exec i s = .next ((s.fenceOp s.cur).exception c (s.reg rs1))

theorem IsAtomic.runInstr {i : Instr} {rs1 : RegIdx} {isStore : Bool} (h : IsAtomic i rs1 isStore) {s : State}
    (hbuilt : atomicsBuilt s.cfg = false) : s.runInstr i = .next (s.exception .illegal (encode i).bits).begun.complete := by
  have hbreaks : s.breaksIntoDebug i = false := by
    rw [State.breaksIntoDebug, decide_eq_false h.noBreak.1, decide_eq_false h.noBreak.2]
    exact Bool.and_false _
  rw [State.runInstr_eq_exec, h.illegal s hbuilt, mapNext]
  · rw [State.waitsForBus, h.drains, hbuilt, h.noHalt]
    rfl
  · rw [State.sendsLoad, h.noAccess]
    exact Bool.and_false _
  · rw [hbreaks, Bool.false_and]
  · rw [State.splitsNow, h.noAccess]

theorem isAtomic_lrW (rd rs1 : RegIdx) (aq rl : Bool) : IsAtomic (.lrW rd rs1 aq rl) rs1 false where
  noAccess := rfl
  noBreak := ⟨Instr.noConfusion, Instr.noConfusion⟩
  noHalt _ := Bool.and_false _
  drains _ := rfl
  illegal s h := congrArg Host.Outcome.next (by rw [State.lrInstr, h]; rfl)
  faults s c h hc := congrArg Host.Outcome.next (by rw [State.lrInstr, if_pos h]; simp only [State.implicitFence, hc])

theorem isAtomic_scW (rd rs1 rs2 : RegIdx) (aq rl : Bool) : IsAtomic (.scW rd rs1 rs2 aq rl) rs1 true where
  noAccess := rfl
  noBreak := ⟨Instr.noConfusion, Instr.noConfusion⟩
  noHalt _ := Bool.and_false _
  drains _ := rfl
  illegal s h := congrArg Host.Outcome.next (by rw [State.scInstr, h]; rfl)
  faults s c h hc := congrArg Host.Outcome.next (by rw [State.scInstr, if_pos h]; simp only [State.implicitFence, hc])

/-- The nine AMOs. -/
def amos : List (RegIdx → RegIdx → RegIdx → Bool → Bool → Instr) :=
  [.amoswapW, .amoaddW, .amoxorW, .amoandW, .amoorW, .amominW, .amomaxW, .amominuW, .amomaxuW]

theorem isAtomic_of_amos (rd rs1 rs2 : RegIdx) (aq rl : Bool) : ∀ f ∈ amos, IsAtomic (f rd rs1 rs2 aq rl) rs1 true := by
  have amo {i : Instr} (op : Word → Word → Word) (hmem : memOp i = none) (hbreak : i ≠ .ebreak ∧ i ≠ .cEbreak)
      (hhalt : ∀ s : State, s.haltsByFirmware i = false) (hdrains : ∀ c, Instr.drains c i = atomicsBuilt c)
      (hexec : ∀ s, exec i s = .next (s.amoInstr (encode i).bits rd rs1 rs2 op)) : IsAtomic i rs1 true :=
    ⟨hmem, hbreak, hhalt, hdrains, fun s h => (hexec s).trans (by rw [State.amoInstr, h]; rfl),
      fun s c h hc => (hexec s).trans (by rw [State.amoInstr, if_pos h]; simp only [State.implicitFence, hc])⟩
  unfold amos
  simp only [List.forall_mem_cons, List.not_mem_nil, IsEmpty.forall_iff, implies_true, and_true]
  refine ⟨?_, ?_, ?_, ?_, ?_, ?_, ?_, ?_, ?_⟩ <;>
    exact amo _ rfl ⟨Instr.noConfusion, Instr.noConfusion⟩ (fun _ => Bool.and_false _) (fun _ => rfl) fun _ => rfl

theorem isAtomic_of_storing (rd rs1 rs2 : RegIdx) (aq rl : Bool) :
    ∀ f ∈ Instr.scW :: amos, IsAtomic (f rd rs1 rs2 aq rl) rs1 true :=
  List.forall_mem_cons.mpr ⟨isAtomic_scW rd rs1 rs2 aq rl, isAtomic_of_amos rd rs1 rs2 aq rl⟩

/-! ## The checks of an atomic -/

/-- The checks of R310 as conditions on numbers, the first one that hits. -/
theorem State.atomicFault_eq (s : State) (isStore : Bool) (a : Word) : s.atomicFault isStore a =
    let x := a.toNat
    let own := dRegion s.cfg x
    if regionOf x ≠ regionOf (x + 3) then some ⟨misalignedCode isStore, 2⟩
    else if own = true ∧ ¬(inDccm s.cfg x = true ∧ inDccm s.cfg (x + 3) = true) ∧
      ¬(inPic s.cfg x = true ∧ inPic s.cfg (x + 3) = true) then some ⟨accessFaultCode isStore, 2⟩
    else if own = false ∧ windowsAllow s.cfg.dataWindows x (x + 3) = false then some ⟨accessFaultCode isStore, 3⟩
    else if x % 4 ≠ 0 ∨ inDccm s.cfg x = false then some ⟨accessFaultCode isStore, 7⟩
    else if s.eccFault false x 4 = true then some ⟨accessFaultCode isStore, 1⟩
    else none := by
  have hlast : a.toNat + 4 - 1 = a.toNat + 3 := rfl
  simp only [State.atomicFault, crossesRegion, hlast, bne_iff_ne, Bool.and_eq_true, Bool.or_eq_true, Bool.not_eq_true', and_assoc,
    ← Bool.not_eq_true]

/-- Of an aligned word the only word touched is itself. -/
theorem State.eccFault_word {s : State} {x : Nat} (haligned : x % 4 = 0) (hreport : s.shared.mfdc.getLsbD 8 = false)
    (hbad : x ∈ s.badWords) : s.eccFault false x 4 = true := by
  have hword : wordAddr x = x := by unfold wordAddr; omega
  exact (s.eccFault_iff false x 4).mpr ⟨hreport, by simp, .inl (hword.symm ▸ hbad)⟩

/-- Settles O36: without atomics nothing but the exception happens; with them the checks are made on the state after the fence. -/
theorem atomicsThatTrap : Obligations.AtomicsThatTrap := by
  unfold Obligations.AtomicsThatTrap
  refine ⟨fun s rd rs1 rs2 aq rl hoff => ?_, ?_⟩
  · have hbuilt : atomicsBuilt s.cfg = false := by
      unfold atomicsBuilt
      rcases hoff with h | h <;> simp [h]
    have illegal {i : Instr} {isStore : Bool} (h : IsAtomic i rs1 isStore) :
        ∃ t, exec i s = .next t ∧ Traps s t ⟨2, 0⟩ (encode i).bits ∧ s.runInstr i = .next t.begun.complete :=
      ⟨_, h.illegal s hbuilt, s.exception_traps .illegal _ [] (by decide), h.runInstr hbuilt⟩
    refine List.forall_mem_cons.mpr ⟨illegal (isAtomic_lrW rd rs1 aq rl), fun i hi => ?_⟩
    obtain ⟨f, hf, rfl⟩ := List.mem_map.mp hi
    exact illegal (isAtomic_of_storing rd rs1 rs2 aq rl f hf)
  · intro s rd rs1 rs2 aq rl hatomic hdccm a x own checks
    have hbuilt : atomicsBuilt s.cfg = true := by
      rw [atomicsBuilt, hatomic, hdccm]
      rfl
    let d := s.fenceOp s.cur
    have check {i : Instr} {isStore : Bool} (h : IsAtomic i rs1 isStore) :
        checks i (misalignedCode isStore) (accessFaultCode isStore) := by
      have raise {c : Cause} (hc : d.atomicFault isStore a = some c) : ∃ t, exec i s = .next t ∧ Traps d t c a :=
        ⟨_, h.faults s c hbuilt hc, d.exception_traps c a [] (d.atomicFault_cause isStore a c hc)⟩
      have hchecks := d.atomicFault_eq isStore a
      have hcfg : d.cfg = s.cfg := s.fenceOp_cfg s.cur
      have hshared : d.shared = s.shared := s.fenceOp_shared s.cur
      have hbadWords : d.badWords = s.badWords := s.fenceOp_badWords s.cur
      rw [hcfg] at hchecks
      dsimp only at hchecks
      change ite _ _ _
      split_ifs with h1 h2 h3 h4 h5
      · exact raise (by rw [hchecks, if_pos h1])
      · exact raise (by rw [hchecks, if_neg h1, if_pos h2])
      · exact raise (by rw [hchecks, if_neg h1, if_neg h2, if_pos h3])
      · exact raise (by rw [hchecks, if_neg h1, if_neg h2, if_neg h3, if_pos h4])
      · have hecc : d.eccFault false x 4 = true :=
          State.eccFault_word (not_not.mp fun h => h4 (.inl h)) (hshared ▸ h5.1) (hbadWords ▸ h5.2)
        exact raise (by rw [hchecks, if_neg h1, if_neg h2, if_neg h3, if_neg h4, if_pos hecc])
    exact ⟨check (isAtomic_lrW rd rs1 aq rl), fun f hf => check (isAtomic_of_storing rd rs1 rs2 aq rl f hf)⟩

end Sys2Proof.Machine
end

section
/-! PROOFS. A step at an instruction boundary: what the fetch leaves, when the instruction runs at once, and the exceptions of a
fetch (20_memory.md R290, R291; 60_exceptions.md R651). -/

namespace Sys2Proof.Machine

/-! ## An instruction begins no single step -/

/-- From `s` to `t` the same hart executes, and it is not single-stepped if it was not. -/
structure State.StaysUnstepped (s t : State) : Prop where
  cur : t.cur = s.cur
  hart : s.hart.dbg.stepping = false → t.hart.dbg.stepping = false

section unstepped
variable {s t u : State}

theorem State.StaysUnstepped.refl (s : State) : s.StaysUnstepped s := ⟨rfl, id⟩

theorem State.StaysUnstepped.trans (h : s.StaysUnstepped t) (k : t.StaysUnstepped u) : s.StaysUnstepped u :=
  ⟨k.cur.trans h.cur, fun e => k.hart (h.hart e)⟩

theorem State.StaysUnstepped.of_dbg (hcur : t.cur = s.cur) (hdbg : t.hart.dbg = s.hart.dbg) : s.StaysUnstepped t :=
  ⟨hcur, fun e => by rw [hdbg, e]⟩

theorem State.staysUnstepped_mapHartAt (k : HartId) (s : State) {f : Hart → Hart} (hf : ∀ x, (f x).dbg = x.dbg) :
    s.StaysUnstepped (s.mapHartAt k f) := by
  refine .of_dbg rfl ?_
  obtain ⟨cfg, cur, _⟩ := s
  cases cur <;> cases k
  case t0.t0 | t1.t1 => exact hf _
  case t0.t1 | t1.t0 => rfl

theorem State.StaysUnstepped.mapHartAt (h : s.StaysUnstepped t) {f : Hart → Hart} (hf : ∀ x, (f x).dbg = x.dbg) (k : HartId) :
    s.StaysUnstepped (t.mapHartAt k f) :=
  h.trans (t.staysUnstepped_mapHartAt k hf)

theorem State.StaysUnstepped.mapHart (h : s.StaysUnstepped t) {f : Hart → Hart} (hf : ∀ x, (f x).dbg = x.dbg) :
    s.StaysUnstepped (t.mapHart f) :=
  h.mapHartAt hf t.cur

theorem State.staysUnstepped_mapHart (s : State) {f : Hart → Hart} (hf : ∀ x, (f x).dbg = x.dbg) : s.StaysUnstepped (s.mapHart f) :=
  (StaysUnstepped.refl s).mapHart hf

theorem State.staysUnstepped_afterDrain (k : HartId) (s : State) (m n b) : s.StaysUnstepped (s.afterDrain k m n b) := by
  refine .of_dbg rfl ?_
  obtain ⟨cfg, cur, _⟩ := s
  cases cur <;> cases k <;> rfl

theorem State.staysUnstepped_drainAll (k : HartId) (s : State) : s.StaysUnstepped (s.drainAll k) := by
  rw [State.drainAll_frame]
  exact s.staysUnstepped_afterDrain k ..

theorem State.staysUnstepped_fenceOp (k : HartId) (s : State) : s.StaysUnstepped (s.fenceOp k) :=
  (s.staysUnstepped_drainAll k).mapHartAt (f := fun x => { x with seen := { x.seen with data := s.shared.mrac } }) (fun _ => rfl) k

theorem State.staysUnstepped_fenceIOp (k : HartId) (s : State) : s.StaysUnstepped (s.fenceIOp k) := by
  have h := (s.staysUnstepped_fenceOp k).mapHartAt (f := fun x => { x with seen := { x.seen with fetch := s.shared.mrac } })
    (fun _ => rfl) k
  exact ⟨h.cur, h.hart⟩

theorem State.staysUnstepped_readChecked (s : State) (a n) : s.StaysUnstepped (s.readChecked a n).2 := by
  obtain ⟨m, q, b, h⟩ := s.readChecked_frame a n
  rw [h]
  exact s.staysUnstepped_afterDrain s.cur ..

theorem State.staysUnstepped_dccmStore (s : State) (a v n) : s.StaysUnstepped (s.dccmStore a v n) :=
  .of_dbg rfl (by rw [State.dccmStore_hart])

theorem State.staysUnstepped_writeChecked (s : State) (a v n) : s.StaysUnstepped (s.writeChecked a v n) := by
  unfold State.writeChecked
  split
  · exact s.staysUnstepped_dccmStore a v n
  split
  · exact .of_dbg (State.picWrite_cur ..) (by rw [State.picWrite_hart])
  · unfold State.busStore
    exact s.staysUnstepped_mapHartAt _ fun _ => rfl

theorem State.staysUnstepped_exception (s : State) (c v evs) : s.StaysUnstepped (s.exception c v evs) :=
  s.staysUnstepped_mapHart fun x => by simp [Hart.exception]

theorem State.staysUnstepped_writeBack (s : State) (len evs rd v) : s.StaysUnstepped (s.writeBack len evs rd v) :=
  s.staysUnstepped_mapHart fun x => by simp

theorem State.staysUnstepped_enterSleep (k : HartId) (s : State) : s.StaysUnstepped (s.enterSleep k) :=
  (s.staysUnstepped_drainAll k).mapHartAt (f := fun x => { x with activity := .sleep, reservation := none }) (fun _ => rfl) k

theorem Hart.outOfReset_stepping (cfg : Config) (r q : Bool) : (Hart.outOfReset cfg r q).dbg.stepping = false := by
  unfold Hart.outOfReset
  dsimp only
  split <;> rfl

theorem State.staysUnstepped_startHart1 (s : State) : s.StaysUnstepped s.startHart1 := by
  unfold State.startHart1
  split
  · refine ⟨rfl, fun h => ?_⟩
    obtain ⟨cfg, cur, _⟩ := s
    cases cur
    · exact h
    · exact Hart.outOfReset_stepping ..
  · exact .refl s

theorem State.staysUnstepped_csrWrite (k : HartId) (s : State) (r w d) : s.StaysUnstepped (s.csrWrite k r w d) := by
  cases r
  case dmst =>
    change s.StaysUnstepped (s.writeDmst k w)
    unfold State.writeDmst
    split
    · exact s.staysUnstepped_fenceIOp k
    split
    · exact s.staysUnstepped_fenceOp k
    · exact .refl s
  case mpmc =>
    change s.StaysUnstepped (s.writeMpmc k w d)
    unfold State.writeMpmc
    dsimp only
    split
    · refine StaysUnstepped.trans ?_ (State.staysUnstepped_enterSleep k _)
      refine StaysUnstepped.mapHartAt ?_ ?_ k
      · refine s.staysUnstepped_mapHartAt k ?_
        exact fun _ => rfl
      · exact fun _ => rfl
    · refine s.staysUnstepped_mapHartAt k ?_
      exact fun _ => rfl
  case dicago =>
    unfold State.csrWrite State.diagWrite
    dsimp only
    split_ifs <;> exact .of_dbg rfl rfl
  case mhartstart =>
    unfold State.csrWrite
    dsimp only
    split
    · exact s.staysUnstepped_startHart1
    · exact .refl s
  case mrac | mfdht | micect | miccmect | mdccmect | mcgc | mfdc | mnmipdel => exact .of_dbg rfl rfl
  case misa | mip | zero | mvendorid | marchid | mimpid | mhartid | mdseac | mhartnum | meihap => exact .refl s
  case dcsr | dpc | mfdhs =>
    refine ⟨rfl, fun h => ?_⟩
    obtain ⟨cfg, cur, _⟩ := s
    cases cur <;> cases k <;> exact h
  case meicpct =>
    unfold State.csrWrite State.captureClaim
    refine s.staysUnstepped_mapHartAt k ?_
    exact fun _ => rfl
  all_goals
    unfold State.csrWrite
    dsimp only
    refine s.staysUnstepped_mapHartAt k ?_
    intro x
    simp

end unstepped

/-- No shape of instruction begins a single step. -/
theorem ExecShape.staysUnstepped {s t : State} {csr : Bool} (h : ExecShape s csr t) : s.StaysUnstepped t := by
  have fenced : s.StaysUnstepped s.implicitFence := s.staysUnstepped_fenceOp s.cur
  cases h
  case writeBack => exact s.staysUnstepped_writeBack _ _ _ _
  case retire | goTo | ecall => exact s.staysUnstepped_mapHart fun x => by simp [Hart.exception]
  case jump =>
    unfold State.jump
    exact (s.staysUnstepped_mapHart fun x => by simp).mapHart fun x => by simp
  case mret => exact (s.staysUnstepped_mapHart fun x => by simp).mapHart fun x => by simp
  case branch =>
    unfold State.branch
    split <;> exact s.staysUnstepped_mapHart fun x => by simp
  case load b off n _ _ =>
    unfold State.loadInstr
    dsimp only
    split
    · exact s.staysUnstepped_exception _ _ _
    · exact (s.staysUnstepped_readChecked _ _).trans (State.staysUnstepped_writeBack _ _ _ _ _)
  case store b off v n _ =>
    unfold State.storeInstr
    dsimp only
    split
    · exact s.staysUnstepped_exception _ _ _
    · exact (s.staysUnstepped_writeChecked _ _ _).mapHart fun x => by simp
  case fence => exact fenced.mapHart fun x => by simp
  case fenceI => exact (s.staysUnstepped_fenceIOp s.cur).mapHart fun x => by simp
  case amo =>
    unfold State.amoInstr
    dsimp only
    split
    · split
      · exact fenced.trans (State.staysUnstepped_exception _ _ _ _)
      · exact (fenced.trans (State.staysUnstepped_dccmStore _ _ _ _)).trans (State.staysUnstepped_writeBack _ _ _ _ _)
    · exact s.staysUnstepped_exception _ _ _
  case lr =>
    unfold State.lrInstr
    dsimp only
    split
    · split
      · exact fenced.trans (State.staysUnstepped_exception _ _ _ _)
      · refine State.StaysUnstepped.trans (State.StaysUnstepped.mapHart fenced ?_) (State.staysUnstepped_writeBack _ _ _ _ _)
        exact fun _ => rfl
    · exact s.staysUnstepped_exception _ _ _
  case sc =>
    unfold State.scInstr
    dsimp only
    split
    · split
      · exact fenced.trans (State.staysUnstepped_exception _ _ _ _)
      · refine State.StaysUnstepped.trans (State.StaysUnstepped.mapHart ?_ fun x => x.clearReservation_dbg)
          (State.staysUnstepped_writeBack _ _ _ _ _)
        split
        · exact fenced.trans (State.staysUnstepped_dccmStore _ _ _ _)
        · exact fenced
    · exact s.staysUnstepped_exception _ _ _
  case breakpoint =>
    unfold State.breakpoint
    split
    · refine ⟨s.drainAll_cur s.cur, fun _ => ?_⟩
      rw [State.hart_mapHart]
      rfl
    · exact s.staysUnstepped_exception _ _ _
  case csrAccess =>
    unfold State.csrInstr
    dsimp only
    split
    · exact s.staysUnstepped_exception _ _ _
    · refine State.StaysUnstepped.mapHart ?_ fun x => x.setReg_dbg _ _
      split
      · exact (s.staysUnstepped_mapHart fun x => by simp).trans (State.staysUnstepped_csrWrite s.cur _ _ _ _)
      · exact s.staysUnstepped_mapHart fun x => by simp

/-! ## What the fetch leaves -/

/-- A fetch by way of the I-cache changes the cache, and counts an error that it corrects. -/
theorem State.cacheFetch_frame (s : State) (a : Nat) :
    ∃ m k, (s.cacheFetch a).2 = { s with shared := { s.shared with micect := m }, icache := k } := by
  unfold State.cacheFetch
  dsimp only
  split
  · exact ⟨_, _, rfl⟩
  split
  · exact ⟨_, _, rfl⟩
  · exact ⟨_, _, rfl⟩

theorem State.parcelAt_frame (s : State) (p : Word) :
    ∃ m k, (s.parcelAt p).2 = { s with shared := { s.shared with micect := m }, icache := k } := by
  unfold State.parcelAt
  split
  · exact s.cacheFetch_frame _
  · exact ⟨_, _, rfl⟩

theorem State.fetch_frame (s : State) :
    ∃ m k, s.fetch.2 = { s with shared := { s.shared with micect := m }, icache := k } := by
  unfold State.fetch
  dsimp only
  obtain ⟨m, k, hlo⟩ := s.parcelAt_frame s.pc
  split
  · exact ⟨_, _, rfl⟩
  split
  · exact ⟨m, k, hlo⟩
  split
  · exact ⟨m, k, hlo⟩
  · obtain ⟨m', k', hhi⟩ := (s.parcelAt s.pc).2.parcelAt_frame (s.pc + 2)
    refine ⟨m', k', ?_⟩
    dsimp only
    rw [hhi, hlo]

/-! ## The step at a boundary -/

/-- In a proper build and out of reset the step is the step of a hart. -/
theorem State.step_eq_hartStep {s : State} (build : configOk s.cfg = true) (hart : s.cur = .t0 ∨ s.cfg.dualThread = true)
    (inputs : s.env.inputs = []) (outOfReset : s.heldInReset = false) : step s = s.hartStep := by
  have hthere : ¬(s.cur = .t1 ∧ (!s.cfg.dualThread) = true) := by
    rintro ⟨hcur, hsingle⟩
    rcases hart with h | h
    · rw [hcur] at h
      cases h
    · rw [h] at hsingle
      cases hsingle
  change s.stepOnce = _
  rw [State.stepOnce, if_pos build, inputs]
  change s.harts? = _
  rw [State.harts?, if_neg hthere, outOfReset]
  rfl

theorem State.AtBoundary.step_eq {s : State} (h : s.AtBoundary) : step s = s.atBoundary := by
  rw [State.step_eq_hartStep h.build h.hart h.inputs h.outOfReset, State.hartStep, h.active]
  change s.running = _
  rw [State.running, h.idle]

theorem State.complete_of_unstepped {s : State} (h : s.hart.dbg.stepping = false) : s.complete = s.settle := by
  rw [State.complete, h]
  rfl

/-- The buses of hart `h` answer. -/
theorem State.quiet_of_answered {s : State} {h : HartId} (answered : s.env.stall.get h = ⟨false, false⟩) :
    s.storesStuck h = false ∧ s.loadStuck h = false ∧ s.fetchStuck h = false ∧ s.busBusy h = false := by
  have hstores : s.storesStuck h = false := by rw [State.storesStuck, answered]; rfl
  have hload : s.loadStuck h = false := by rw [State.loadStuck, answered]; rfl
  have hfetch : s.fetchStuck h = false := by rw [State.fetchStuck, answered]; rfl
  exact ⟨hstores, hload, hfetch, by rw [State.busBusy, hstores, hload, hfetch]; rfl⟩

/-- The buses answer and no access is split, so an instruction runs at once. -/
theorem State.runInstr_of_answered {s : State} (answered : s.env.stall.get s.cur = ⟨false, false⟩) (whole : s.env.splits = false)
    (noStep : s.hart.dbg.stepping = false) (i : Instr) : s.runInstr i = mapNext (exec i s) fun t => t.begun.settle := by
  obtain ⟨hstores, -, -, hbusy⟩ := State.quiet_of_answered answered
  have hsplit : s.splitsNow i = none := by
    rw [State.splitsNow]
    cases memOp i with
    | none => rfl
    | some m =>
      have hpart : s.firstPart m = none := by rw [State.firstPart, whole]; rfl
      simp only [hpart, Option.map_none]
  rw [State.runInstr_eq_exec _ _ _ hsplit]
  · obtain ⟨t, ht, hshape⟩ := exec_shape i s
    have hunstepped : t.begun.hart.dbg.stepping = false := by
      rw [State.begun, State.hart_mapHart]
      exact hshape.staysUnstepped.hart noStep
    rw [ht]
    exact congrArg Host.Outcome.next (State.complete_of_unstepped hunstepped)
  · rw [State.waitsForBus, hstores, Bool.and_false]
  · rw [State.sendsLoad, answered]
    rfl
  · rw [hbusy, Bool.and_false]

theorem State.not_pausing {s : State} (h : s.hart.power.pauseCount = 0) : s.hart.pausing = false := by
  rw [Hart.pausing, h]
  exact Bool.and_false _

theorem State.Ready.atBoundary_eq {s : State} (h : s.Ready) : step s = s.instruction := by
  have hpause := State.not_pausing h.noPause
  rw [h.toAtBoundary.step_eq, State.atBoundary, h.noStep, h.noHalt, h.noSleep, hpause]
  simp only [Bool.false_and, Bool.false_eq_true, if_false, h.noNmi, h.noInterrupt, hpause]

/-- With no trigger armed a fetch is followed by what it gives. -/
theorem State.Ready.step_eq {s : State} (h : s.Ready) : step s = s.fetch.1.run s.fetch.2 := by
  obtain ⟨m, k, hframe⟩ := s.fetch_frame
  have hfetch := (State.quiet_of_answered h.answered).2.2.1
  have htriggers (acc : Access) : s.fetch.2.evalTriggers acc = (.nothing, s.fetch.2) := by
    have harmed : s.fetch.2.hart.trig.armed = false := by
      rw [hframe]
      exact h.noTrigger
    rw [State.evalTriggers]
    simp only [harmed, Bool.false_eq_true, if_false]
  rw [h.atBoundary_eq, State.instruction, hfetch]
  simp only [Bool.false_eq_true, if_false, State.withTriggers, htriggers]

/-- Settles O44: the fetch leaves the hart and the environment, so nothing that the instruction would wait for comes up. -/
theorem stepRunsDecodedInstruction : Obligations.StepRunsDecodedInstruction := by
  unfold Obligations.StepRunsDecodedInstruction
  intro s u l rest i ready hfetch hdecode
  obtain ⟨m, k, hframe⟩ := s.fetch_frame
  rw [hfetch] at hframe
  have hu : u = { s with shared := { s.shared with micect := m }, icache := k } := hframe
  rw [ready.step_eq, hfetch]
  simp only [Fetched.run, hdecode]
  refine State.runInstr_of_answered ?_ ?_ ?_ i
  · rw [hu]
    exact ready.answered
  · rw [hu]
    exact ready.whole
  · rw [hu]
    exact ready.noStep

end Sys2Proof.Machine
end

section
/-! PROOFS. The instruction in memory and the exceptions of a fetch (20_memory.md R261, R290, R291, R303). -/

namespace Sys2Proof.Machine

/-! ## The bytes of a parcel -/

theorem parcelBytes_parcelOf (a b : Byte) : parcelBytes (parcelOf a b) = [a, b] := by
  have hlow : (parcelOf a b).extractLsb' 0 8 = a := by
    refine BitVec.eq_of_getLsbD_eq fun i hi => ?_
    rw [BitVec.getLsbD_extractLsb', parcelOf_bit]
    simp [hi]
  have hhigh : (parcelOf a b).extractLsb' 8 8 = b := by
    refine BitVec.eq_of_getLsbD_eq fun i hi => ?_
    rw [BitVec.getLsbD_extractLsb', parcelOf_bit]
    simp [hi]
  rw [parcelBytes, hlow, hhigh]

/-- A parcel read from memory, not by way of the I-cache, leaves the state as it is. -/
theorem State.parcelAt_memory {s : State} {p : Word} (h : s.usesCache p.toNat = false) :
    s.parcelAt p = (parcelOf (memRead s.mem (addrAt p 0)) (memRead s.mem (addrAt p 1)), s) := by
  have hvalue : BitVec.ofNat 16 (memReadN s.mem p 2) = parcelOf (memRead s.mem (addrAt p 0)) (memRead s.mem (addrAt p 1)) := by
    refine BitVec.eq_of_toNat_eq ?_
    have h0 := (memRead s.mem (addrAt p 0)).isLt
    have h1 := (memRead s.mem (addrAt p 1)).isLt
    rw [parcelOf, BitVec.toNat_append, BitVec.toNat_ofNat, ← Nat.shiftLeft_add_eq_or_of_lt h0, Nat.shiftLeft_eq]
    simp only [memReadN]
    omega
  rw [State.parcelAt, h, hvalue]
  rfl

theorem addrAt_add (p : Word) (k j : Nat) : addrAt (p + BitVec.ofNat 32 k) j = addrAt p (k + j) := by
  rw [addrAt, addrAt, BitVec.add_assoc, ← BitVec.ofNat_add]

theorem Code.length_of_bytes {c : Code} (h : c.bytes.length = 4) : c.length = 4 := by
  cases c with
  | half p => cases h
  | word w => rfl

/-- Settles O45: the fetch reads memory, one parcel or two, as decoding the four bytes does. -/
theorem stepRunsInstructionInMemory : Obligations.StepRunsInstructionInMemory := by
  unfold Obligations.StepRunsInstructionInMemory
  intro s rest i ready hdecode hparcel
  have hpos : 0 < (encode i).length := by cases encode i <;> exact Nat.succ_pos _
  have hpc : addrAt s.pc 0 = s.pc.toNat := by rw [addrAt, BitVec.add_zero]
  have hnext : (s.pc + 2).toNat = addrAt s.pc 2 := rfl
  obtain ⟨hfault0, hcache0⟩ := hparcel 0 hpos
  rw [Nat.mul_zero, hpc] at hfault0 hcache0
  have hlo := State.parcelAt_memory hcache0
  by_cases hc : isCompressed (parcelOf (memRead s.mem (addrAt s.pc 0)) (memRead s.mem (addrAt s.pc 1))) = true
  · have hfetch : s.fetch = (.bytes [memRead s.mem (addrAt s.pc 0), memRead s.mem (addrAt s.pc 1)], s) := by
      rw [State.fetch]
      simp only [hfault0, hlo, hc, if_true, parcelBytes_parcelOf]
    refine stepRunsDecodedInstruction s s _ [] i ready hfetch ?_
    simp only [decode, hc, if_true] at hdecode ⊢
    split at hdecode
    · cases hdecode
      rfl
    · cases hdecode
  · have hrest : rest = [] := by
      simp only [decode, hc, Bool.false_eq_true, if_false] at hdecode
      split at hdecode <;> cases hdecode
      rfl
    have hlength : (encode i).length = 4 := by
      obtain ⟨-, hbytes⟩ := encodeAfterDecode _ rest i hdecode
      rw [hrest, List.append_nil] at hbytes
      exact Code.length_of_bytes (by rw [← hbytes]; rfl)
    obtain ⟨hfault2, hcache2⟩ := hparcel 1 (by omega)
    have hhi := State.parcelAt_memory (p := s.pc + 2) hcache2
    have hfetch : s.fetch = (.bytes [memRead s.mem (addrAt s.pc 0), memRead s.mem (addrAt s.pc 1), memRead s.mem (addrAt s.pc 2),
        memRead s.mem (addrAt s.pc 3)], s) := by
      have h0 : addrAt (s.pc + 2) 0 = addrAt s.pc 2 := addrAt_add s.pc 2 0
      have h1 : addrAt (s.pc + 2) 1 = addrAt s.pc 3 := addrAt_add s.pc 2 1
      rw [State.fetch]
      simp only [hfault0, hlo, hc, hnext, hfault2, hhi, h0, h1, parcelBytes_parcelOf]
      rfl
    exact stepRunsDecodedInstruction s s _ rest i ready hfetch hdecode

/-! ## The exceptions of a fetch -/

/-- The checks of R291 as conditions on numbers, the first one that hits. -/
theorem State.fetchFault_eq (s : State) (x : Nat) : s.fetchFault x =
    let own := iRegion s.cfg x
    if own = true ∧ inIccm s.cfg x = false then some 2
    else if own = false ∧ windowsAllow s.cfg.instWindows x (x + 1) = false then some 3
    else if own = false ∧ s.busAnswers .fetch x 2 = false then some 9
    else if inIccm s.cfg x = true ∧ s.shared.mfdc.getLsbD 8 = false ∧ wordAddr x ∈ s.badWords then some 1
    else none := by
  simp only [State.fetchFault, Bool.and_eq_true, Bool.not_eq_true', List.contains_iff_mem, and_assoc]

/-- The checks of a parcel ask nothing that a fetch changes. -/
theorem State.fetchFault_parcelAt (s : State) (p : Word) (x : Nat) : (s.parcelAt p).2.fetchFault x = s.fetchFault x := by
  obtain ⟨m, k, hframe⟩ := s.parcelAt_frame p
  rw [hframe]
  rfl

theorem State.fetch_fault_first {s : State} {c : BitVec 4} (h : s.fetchFault s.pc.toNat = some c) : s.fetch = (.fault c s.pc, s) := by
  rw [State.fetch]
  simp only [h]

theorem State.fetch_fault_second {s : State} {c : BitVec 4} (hfirst : s.fetchFault s.pc.toNat = none)
    (hlow : (s.parcelAt s.pc).1.extractLsb' 0 2 = 3) (h : s.fetchFault (s.pc + 2).toNat = some c) :
    s.fetch = (.fault c (s.pc + 2), (s.parcelAt s.pc).2) := by
  have hlong : isCompressed (s.parcelAt s.pc).1 = false := by
    rw [isCompressed, hlow]
    rfl
  have hsecond := (s.fetchFault_parcelAt s.pc (s.pc + 2).toNat).trans h
  rw [State.fetch]
  simp only [hfirst, hlong, hsecond, Bool.false_eq_true, if_false]

/-- An exception of a fetch is the whole step, but for its end. -/
theorem State.Ready.step_exception {s u : State} (ready : s.Ready) {f : Fetched} (hfetch : s.fetch = (f, u)) {c : Cause} {v : Word}
    (hrun : f.run u = .next (u.exception c v).complete) (hc : c.mcause.getLsbD 31 = false) :
    ∃ t, step s = .next t.settle ∧ Traps u t c v := by
  have hunstepped : (u.exception c v).hart.dbg.stepping = false := by
    obtain ⟨m, k, hframe⟩ := s.fetch_frame
    rw [hfetch] at hframe
    have hu : u = { s with shared := { s.shared with micect := m }, icache := k } := hframe
    refine (u.staysUnstepped_exception c v []).hart ?_
    rw [hu]
    exact ready.noStep
  refine ⟨_, ?_, u.exception_traps c v [] hc⟩
  rw [ready.step_eq, hfetch]
  exact hrun.trans (congrArg Host.Outcome.next (State.complete_of_unstepped hunstepped))

/-- Settles O46: the exception is what follows the fetch. -/
theorem fetchExceptions : Obligations.FetchExceptions := by
  unfold Obligations.FetchExceptions
  constructor
  · intro s u l r ready hfetch hdecode
    have hstep : ∃ t, step s = .next t.settle ∧ Traps u t ⟨2, 0⟩ (Reject.bits r) := by
      refine ready.step_exception hfetch ?_ (by decide)
      simp only [Fetched.run, hdecode]
      rfl
    cases r <;> exact hstep
  · intro s ready checks
    have check {p : Word} {u : State} (hfault : ∀ c, s.fetchFault p.toNat = some c → s.fetch = (.fault c p, u)) : checks p u := by
      have raise {c : BitVec 4} (hc : s.fetchFault p.toNat = some c) : ∃ t, step s = .next t.settle ∧ Traps u t ⟨1, c⟩ p :=
        ready.step_exception (hfault c hc) rfl (show (1 : Word).getLsbD 31 = false by decide)
      have hchecks := s.fetchFault_eq p.toNat
      dsimp only at hchecks
      change ite _ _ _
      split_ifs with h1 h2 h3 h4
      · exact raise (by rw [hchecks, if_pos h1])
      · exact raise (by rw [hchecks, if_neg h1, if_pos h2])
      · exact raise (by rw [hchecks, if_neg h1, if_neg h2, if_pos h3])
      · exact raise (by rw [hchecks, if_neg h1, if_neg h2, if_neg h3, if_pos h4])
    exact ⟨check fun c hc => State.fetch_fault_first hc, fun hfirst hlow =>
      check fun c hc => State.fetch_fault_second hfirst hlow hc⟩

end Sys2Proof.Machine
end

section
/-! PROOFS. Interrupts and NMIs at an instruction boundary (60_exceptions.md R660, R661, R670 to R672, R690, R692, R693). -/

namespace Sys2Proof.Machine

/-! ## Taking an interrupt -/

@[simp] theorem Hart.interrupt_trap (h : Hart) (m t : Word) (e : List Nat) : (h.interrupt m t e).trap = { h.trap with
    mepc := h.pc &&& 0xFFFFFFFE, mcause := m, mscause := 0, mtval := 0, mstatusMpie := h.trap.mstatusMie, mstatusMie := false } := by
  simp [Hart.interrupt, Hart.enterTrap]

@[simp] theorem Hart.interrupt_pc (h : Hart) (m t : Word) (e : List Nat) : (h.interrupt m t e).pc = t := rfl

@[simp] theorem Hart.interrupt_reservation (h : Hart) (m t : Word) (e : List Nat) : (h.interrupt m t e).reservation = none := rfl

@[simp] theorem Hart.interrupt_regs (h : Hart) (m t : Word) (e : List Nat) : (h.interrupt m t e).regs = h.regs := by
  simp [Hart.interrupt, Hart.enterTrap]

@[simp] theorem Hart.interrupt_minstret (h : Hart) (m t : Word) (e : List Nat) :
    (h.interrupt m t e).ctr.minstret = h.ctr.minstret := by
  simp [Hart.interrupt, Hart.enterTrap]

@[simp] theorem Hart.interrupt_pic (h : Hart) (m t : Word) (e : List Nat) : (h.interrupt m t e).pic = h.pic := by
  simp [Hart.interrupt, Hart.enterTrap]

@[simp] theorem Hart.interrupt_nmi (h : Hart) (m t : Word) (e : List Nat) : (h.interrupt m t e).nmi = h.nmi := by
  simp [Hart.interrupt, Hart.enterTrap]

@[simp] theorem Hart.interrupt_dbg (h : Hart) (m t : Word) (e : List Nat) : (h.interrupt m t e).dbg = h.dbg := by
  simp [Hart.interrupt, Hart.enterTrap]

/-- The hart `h` has been interrupted: what taking an interrupt or an NMI writes and keeps (R670, R692). -/
structure Hart.Interrupted (h h' : Hart) (code target : Word) : Prop where
  trap : h'.trap = { h.trap with
    mepc := h.pc &&& 0xFFFFFFFE, mcause := code, mscause := 0, mtval := 0, mstatusMpie := h.trap.mstatusMie, mstatusMie := false }
  pc : h'.pc = target
  reservation : h'.reservation = none
  regs : h'.regs = h.regs
  minstret : h'.ctr.minstret = h.ctr.minstret
  dbg : h'.dbg = h.dbg

theorem Hart.interrupted (h : Hart) (m t : Word) (e : List Nat) : h.Interrupted (h.interrupt m t e) m t where
  trap := h.interrupt_trap m t e
  pc := rfl
  reservation := rfl
  regs := h.interrupt_regs m t e
  minstret := h.interrupt_minstret m t e
  dbg := h.interrupt_dbg m t e

/-! ## The end of a pause -/

/-- The state in which the boundary looks for interrupts: a pause that something ends is over (62 R820). -/
def State.unpaused (s : State) : State :=
  if s.hart.pausing && s.endsPause s.cur then s.mapHart fun h => { h with power := { h.power with pauseCount := 0 } } else s

/-- A hart but for its pause count. -/
def Hart.withPause (n : Word) (h : Hart) : Hart := { h with power := { h.power with pauseCount := n } }

theorem State.unpaused_frame (s : State) : ∃ n, s.unpaused = s.mapHart (Hart.withPause n) := by
  unfold State.unpaused
  split
  · exact ⟨0, rfl⟩
  · exact ⟨s.hart.power.pauseCount, (State.mapHart_congr s _ (fun h => h) rfl).trans s.mapHart_id |>.symm⟩

/-- What the hart does at a boundary that no halt comes before: an NMI, an interrupt, a pause, or an instruction. -/
def State.pastHalts (s : State) : Host.Outcome State Fault Refusal :=
  if s.hart.nmi.pending then .next (s.takePendingNmi s.cur).complete
  else
    match s.interruptToTake s.cur with
    | some c => .next (s.takeInterrupt s.cur c).complete
    | none => if s.hart.pausing then .next s.settle else s.instruction

theorem State.AtBoundary.step_eq_pastHalts {s : State} (h : s.AtBoundary) : step s = s.unpaused.pastHalts := by
  rw [h.step_eq, State.atBoundary, h.noStep, h.noHalt, h.noSleep]
  rfl

/-- At a boundary a pending NMI is taken, and nothing else happens. -/
theorem State.AtBoundary.step_nmi {s : State} (h : s.AtBoundary) (hnmi : s.hart.nmi.pending = true) :
    step s = .next (s.unpaused.takePendingNmi s.unpaused.cur).complete := by
  obtain ⟨n, hu⟩ := s.unpaused_frame
  have hpending : s.unpaused.hart.nmi.pending = true := by rw [hu, State.hart_mapHart]; exact hnmi
  rw [h.step_eq_pastHalts, State.pastHalts, if_pos hpending]

/-- The pause count is not looked at when the interrupts are ranked. -/
theorem State.pendingInterrupt_withPause (s : State) (n : Word) :
    (s.mapHart (Hart.withPause n)).pendingInterrupt s.cur = s.pendingInterrupt s.cur := by
  have hhart : (s.mapHart (Hart.withPause n)).hartAt s.cur = s.hart.withPause n := State.hart_mapHart ..
  unfold State.pendingInterrupt State.extIrq
  rw [hhart]
  rfl

/-- At a boundary without a pending NMI an interrupt that is enabled is taken, and nothing else happens. -/
theorem State.AtBoundary.step_interrupt {s : State} (h : s.AtBoundary) (hnmi : s.hart.nmi.pending = false) {c : Word}
    (hmie : s.hart.trap.mstatusMie = true) (hc : s.pendingInterrupt s.cur = some c) :
    step s = .next (s.unpaused.takeInterrupt s.unpaused.cur c).complete := by
  obtain ⟨n, hu⟩ := s.unpaused_frame
  have hhart : s.unpaused.hart = s.hart.withPause n := by rw [hu, State.hart_mapHart]
  have hpending : ¬s.unpaused.hart.nmi.pending = true := by
    rw [hhart, Bool.not_eq_true]
    exact hnmi
  have htake : s.unpaused.interruptToTake s.unpaused.cur = some c := by
    have hfree : (s.unpaused.hart.trap.mstatusMie && !(s.unpaused.hart.dbg.stepping && !s.unpaused.hart.dbg.stepie)) = true := by
      rw [hhart]
      change (s.hart.trap.mstatusMie && !(s.hart.dbg.stepping && !s.hart.dbg.stepie)) = true
      rw [hmie, h.noStep]
      rfl
    have hranked : s.unpaused.pendingInterrupt s.unpaused.cur = some c := by
      rw [hu]
      exact (s.pendingInterrupt_withPause n).trans hc
    exact (if_pos hfree).trans hranked
  rw [h.step_eq_pastHalts, State.pastHalts, if_neg hpending]
  simp only [htake]

/-! ## NMIs -/

/-- A hart takes its pending NMI, the pin's first. -/
def Hart.takeNmi (vector : Word) (h : Hart) : Hart :=
  if h.nmi.pin then ({ h with nmi := { h.nmi with pin := false } } : Hart).interrupt 0 vector []
  else ({ h with nmi := { h.nmi with bus := none } } : Hart).interrupt
    (if h.nmi.bus = some .load then 0xF0000001 else 0xF0000000) vector []

theorem State.takePendingNmi_cur (s : State) : s.takePendingNmi s.cur = s.mapHart (Hart.takeNmi (nmiVector s.cfg)) := by
  have hafter (f : Hart → Hart) (c : Word) : (s.mapHartAt s.cur f).takeNmi s.cur c =
      s.mapHart fun h => (f h).interrupt c (nmiVector s.cfg) [] :=
    State.mapHart_mapHart s f fun h => h.interrupt c (nmiVector s.cfg) []
  unfold State.takePendingNmi
  dsimp only
  split
  · next hpin =>
    exact (hafter _ _).trans (State.mapHart_congr s _ _ (if_pos hpin).symm)
  · next hpin =>
    refine (hafter _ _).trans (State.mapHart_congr s _ _ (Eq.trans ?_ (if_neg hpin).symm))
    change Hart.interrupt _ (match s.hart.nmi.bus with | some .load => 0xF0000001 | _ => 0xF0000000) _ _ = _
    cases s.hart.nmi.bus with
    | none => rfl
    | some b => cases b <;> rfl

/-- What a hart that takes its pending NMI writes and keeps. -/
theorem Hart.takeNmi_interrupted (h : Hart) (vector : Word) : h.Interrupted (h.takeNmi vector)
    (if h.nmi.pin then 0 else if h.nmi.bus = some .load then 0xF0000001 else 0xF0000000) vector := by
  unfold Hart.takeNmi
  cases h.nmi.pin
  · have k := Hart.interrupted { h with nmi := { h.nmi with bus := none } }
      (if h.nmi.bus = some .load then 0xF0000001 else 0xF0000000) vector []
    exact ⟨k.trap, k.pc, k.reservation, k.regs, k.minstret, k.dbg⟩
  · have k := Hart.interrupted { h with nmi := { h.nmi with pin := false } } 0 vector []
    exact ⟨k.trap, k.pc, k.reservation, k.regs, k.minstret, k.dbg⟩

theorem Hart.takeNmi_nmi (h : Hart) (vector : Word) : (h.takeNmi vector).nmi =
    if h.nmi.pin then { h.nmi with pin := false } else { h.nmi with bus := none } := by
  unfold Hart.takeNmi
  split <;> rw [Hart.interrupt_nmi]

/-- Settles O49: the NMI is all that the step does before its end. -/
theorem nmisAreTaken : Obligations.NmisAreTaken := by
  unfold Obligations.NmisAreTaken
  intro s hboundary hnmi
  obtain ⟨n, hu⟩ := s.unpaused_frame
  let t := s.unpaused.takePendingNmi s.unpaused.cur
  have ht : t = s.mapHart fun h => (h.withPause n).takeNmi (nmiVector s.cfg) := by
    change s.unpaused.takePendingNmi s.unpaused.cur = _
    rw [State.takePendingNmi_cur, hu]
    exact State.mapHart_mapHart ..
  have hhart : t.hart = (s.hart.withPause n).takeNmi (nmiVector s.cfg) := by rw [ht, State.hart_mapHart]
  have k := (s.hart.withPause n).takeNmi_interrupted (nmiVector s.cfg)
  rw [← hhart] at k
  refine ⟨t, (hboundary.step_nmi hnmi).trans ?_, k.pc, k.trap, ?_, k.reservation, Hart.reg_congr k.regs, by rw [ht]; rfl⟩
  · refine congrArg Host.Outcome.next (State.complete_of_unstepped ?_)
    exact (congrArg DebugRegs.stepping k.dbg).trans hboundary.noStep
  · rw [hhart, Hart.takeNmi_nmi]
    rfl

/-! ## The rank of the interrupts -/

/-- The bits of `mip` (R36). -/
theorem State.mip_bits (s : State) (h : HartId) : (s.mip h).getLsbD 11 = s.extIrq h ∧
    (s.mip h).getLsbD 30 = s.shared.errorIrq ∧ (s.mip h).getLsbD 3 = (s.pins.get h).softInt ∧
    (s.mip h).getLsbD 7 = (s.pins.get h).timerInt ∧ (s.mip h).getLsbD 29 = (s.hartAt h).tim0.matches ∧
    (s.mip h).getLsbD 28 = (s.hartAt h).tim1.matches := by
  unfold State.mip
  refine ⟨?_, ?_, ?_, ?_, ?_, ?_⟩ <;> simp only [BitVec.getLsbD_append] <;> simp

theorem State.pendingInterrupt_eq (s : State) (h : HartId) (h0 : (s.hartAt h).tim0.hold = false) (h1 : (s.hartAt h).tim1.hold = false) :
    s.pendingInterrupt h = ([11, 30, 3, 7, 29, 28].find? fun n => (s.csrRead h .mip &&& s.csrRead h .mie).getLsbD n).map
      fun n => 0x80000000 ||| BitVec.ofNat 32 n := by
  obtain ⟨hext, herr, hsoft, htimer, hint0, hint1⟩ := s.mip_bits h
  have hbit (n : Nat) : (s.csrRead h .mip &&& s.csrRead h .mie).getLsbD n = ((s.hartAt h).enabled n && (s.mip h).getLsbD n) := by
    rw [BitVec.getLsbD_and, Bool.and_comm]
    rfl
  unfold State.pendingInterrupt Timer.pending
  simp only [hbit, hext, herr, hsoft, htimer, hint0, hint1, h0, h1, Bool.or_false, List.find?_cons, List.find?_nil]
  cases (s.hartAt h).enabled 11 && s.extIrq h with
  | true => rfl
  | false =>
  cases (s.hartAt h).enabled 30 && s.shared.errorIrq with
  | true => rfl
  | false =>
  cases (s.hartAt h).enabled 3 && (s.pins.get h).softInt with
  | true => rfl
  | false =>
  cases (s.hartAt h).enabled 7 && (s.pins.get h).timerInt with
  | true => rfl
  | false =>
  cases (s.hartAt h).enabled 29 && (s.hartAt h).tim0.matches with
  | true => rfl
  | false => cases (s.hartAt h).enabled 28 && (s.hartAt h).tim1.matches <;> rfl

theorem State.pendingInterrupt_code {s : State} {h : HartId} {c : Word} (hc : s.pendingInterrupt h = some c) :
    c.getLsbD 31 = true := by
  unfold State.pendingInterrupt at hc
  dsimp only at hc
  split_ifs at hc <;> cases hc <;> decide

/-- The vector of an interrupt (R671). -/
theorem trapVector_interrupt {c : Word} (v : Word) (hc : c.getLsbD 31 = true) : trapVector v c =
    (v &&& 0xFFFFFFFC) + (if v.getLsbD 0 then BitVec.ofNat 32 (4 * (c.toNat % 2 ^ 31)) else 0) := by
  have hoffset : (c &&& 0x7FFFFFFF) <<< 2 = BitVec.ofNat 32 (4 * (c.toNat % 2 ^ 31)) := by
    have hlow : (c &&& 0x7FFFFFFF).toNat = c.toNat % 2 ^ 31 := Nat.and_two_pow_sub_one_eq_mod c.toNat 31
    refine BitVec.eq_of_toNat_eq ?_
    rw [BitVec.toNat_shiftLeft, hlow, BitVec.toNat_ofNat, Nat.shiftLeft_eq, Nat.mul_comm]
  unfold trapVector
  rw [hc, Bool.and_true]
  dsimp only
  split
  · rw [hoffset]
  · exact (BitVec.add_zero _).symm

/-! ## The fast interrupt redirect -/

/-- The winner of the PIC is captured. -/
def Hart.claim (best : BitVec 4 × Nat) (h : Hart) : Hart :=
  { h with pic := { h.pic with claimId := BitVec.ofNat 8 best.2, clidPri := best.1 } }

/-- The executing hart claims and is interrupted. -/
def State.claimed (s : State) (code target : Word) (evs : List Nat) : State :=
  s.mapHart fun h => (h.claim (s.pic.best s.cfg.dualThread s.cur)).interrupt code target evs

theorem State.claimed_eq (s : State) (code target : Word) (evs : List Nat) :
    ((s.captureClaim s.cur).mapHartAt s.cur fun x => x.interrupt code target evs) = s.claimed code target evs :=
  State.mapHart_mapHart ..

/-- The address of the claimed source's entry in the vector table. -/
def State.tableEntry (s : State) : Word := s.hart.pic.vecBase ++ BitVec.ofNat 8 (s.pic.best s.cfg.dualThread s.cur).2 ++ 0#2

theorem append_zero2_mod (v : BitVec 22) (w : BitVec 8) : (v ++ w ++ 0#2 : Word).toNat % 4 = 0 := by
  rw [BitVec.toNat_append]
  simp [Nat.shiftLeft_eq]

theorem State.eccFault_word_iff (s : State) {x : Nat} (haligned : x % 4 = 0) :
    s.eccFault false x 4 = true ↔ s.shared.mfdc.getLsbD 8 = false ∧ x ∈ s.badWords := by
  have hfirst : wordAddr x = x := by unfold wordAddr; omega
  have hlast : wordAddr (x + 4 - 1) = x := by unfold wordAddr; omega
  rw [State.eccFault_iff, hfirst, hlast]
  simp

theorem State.redirect_eq (s : State) : s.redirect s.cur =
    let x := s.tableEntry.toNat
    let nmi : Word := s.cfg.nmiVec ++ 0#1
    if s.cfg.dccmEnable = false ∨ x / 2 ^ 28 ≠ s.cfg.dccmRegion.toNat then s.claimed 0xF0001002 nmi []
    else if ¬(inDccm s.cfg x = true ∧ inDccm s.cfg (x + 3) = true) then s.claimed 0xF0001001 nmi []
    else if s.shared.mfdc.getLsbD 8 = false ∧ x ∈ s.badWords then s.claimed 0xF0001000 nmi []
    else s.claimed 0x8000000B (memReadWord s.mem s.tableEntry &&& 0xFFFFFFFE) [39] := by
  have haligned : s.tableEntry.toNat % 4 = 0 := append_zero2_mod _ _
  have hentry : (((s.captureClaim s.cur).hartAt s.cur).pic.vecBase ++ ((s.captureClaim s.cur).hartAt s.cur).pic.claimId ++ 0#2 :
      Word) = s.tableEntry := by
    have hhart : (s.captureClaim s.cur).hartAt s.cur = s.hart.claim (s.pic.best s.cfg.dualThread s.cur) := State.hart_mapHart ..
    rw [hhart]
    rfl
  have hregion : (!(s.cfg.dccmEnable && regionOf s.tableEntry.toNat == s.cfg.dccmRegion.toNat)) = true ↔
      s.cfg.dccmEnable = false ∨ s.tableEntry.toNat / 2 ^ 28 ≠ s.cfg.dccmRegion.toNat := by
    rw [Bool.not_and, Bool.or_eq_true, Bool.not_eq_true', Bool.not_eq_true', beq_eq_false_iff_ne]
    rfl
  have hinside (a b : Bool) : (!(a && b)) = true ↔ ¬(a = true ∧ b = true) := by
    rw [Bool.not_eq_true', ← Bool.not_eq_true, Bool.and_eq_true]
  unfold State.redirect
  dsimp only
  simp only [hentry, hregion, hinside, s.eccFault_word_iff haligned, State.takeNmi, State.claimed_eq]
  rfl

/-! ## Interrupts are taken -/

theorem State.claimed_interrupted (s : State) (n : Word) (code target : Word) (evs : List Nat) :
    s.hart.Interrupted ((s.mapHart (Hart.withPause n)).claimed code target evs).hart code target := by
  rw [State.claimed, State.hart_mapHart, State.hart_mapHart]
  have k := ((s.hart.withPause n).claim (s.pic.best s.cfg.dualThread s.cur)).interrupted code target evs
  exact ⟨k.trap, k.pc, k.reservation, k.regs, k.minstret, k.dbg⟩

theorem State.claimed_pic (s : State) (n : Word) (code target : Word) (evs : List Nat) :
    ((s.mapHart (Hart.withPause n)).claimed code target evs).hart.pic = { s.hart.pic with
      claimId := BitVec.ofNat 8 (s.pic.best s.cfg.dualThread s.cur).2, clidPri := (s.pic.best s.cfg.dualThread s.cur).1 } := by
  rw [State.claimed, State.hart_mapHart, State.hart_mapHart, Hart.interrupt_pic]
  rfl

theorem State.tableEntry_withPause (s : State) (n : Word) : (s.mapHart (Hart.withPause n)).tableEntry = s.tableEntry := by
  rw [State.tableEntry, State.hart_mapHart]
  rfl

/-- A hart takes an interrupt that is not redirected; a timer interrupt that was held is held no more. -/
def Hart.takeInterrupt (c : Word) (h : Hart) : Hart :=
  let y := h.interrupt c (trapVector h.trap.mtvec c) (interruptEvents c)
  { y with
    tim0 := { y.tim0 with hold := y.tim0.hold && c != 0x8000001D }
    tim1 := { y.tim1 with hold := y.tim1.hold && c != 0x8000001C } }

theorem State.takeInterrupt_plain {s : State} {c : Word} (hplain : ¬(c = 0x8000000B ∧ s.cfg.fastRedirect = true)) :
    s.takeInterrupt s.cur c = s.mapHart (Hart.takeInterrupt c) := by
  have hcond : ¬(decide (c = 0x8000000B) && s.cfg.fastRedirect) = true := by
    rw [Bool.and_eq_true, decide_eq_true_eq]
    exact hplain
  exact if_neg hcond

theorem Hart.takeInterrupt_interrupted (h : Hart) (n c : Word) :
    h.Interrupted ((h.withPause n).takeInterrupt c) c (trapVector h.trap.mtvec c) ∧ ((h.withPause n).takeInterrupt c).pic = h.pic := by
  have k := (h.withPause n).interrupted c (trapVector h.trap.mtvec c) (interruptEvents c)
  exact ⟨⟨k.trap, k.pc, k.reservation, k.regs, k.minstret, k.dbg⟩,
    Hart.interrupt_pic (h.withPause n) c (trapVector h.trap.mtvec c) (interruptEvents c)⟩

/-- Settles O48: the rank is that of the bits of `mip` and `mie`; the one interrupt is all that the step does before its end. -/
theorem interruptsAreTaken : Obligations.InterruptsAreTaken := by
  unfold Obligations.InterruptsAreTaken
  refine ⟨fun s h h0 h1 => s.pendingInterrupt_eq h h0 h1, ?_⟩
  intro s c hboundary hnmi hmie hc taken
  obtain ⟨n, hu⟩ := s.unpaused_frame
  have hstep := hboundary.step_interrupt hnmi hmie hc
  rw [hu] at hstep
  have take {t : State} {code target : Word} (k : s.hart.Interrupted t.hart code target) (hmem : t.mem = s.mem)
      (ht : step s = .next t.complete) : taken t code target := by
    have hunstepped : t.hart.dbg.stepping = false := (congrArg DebugRegs.stepping k.dbg).trans hboundary.noStep
    rw [State.complete_of_unstepped hunstepped] at ht
    have htrap := k.trap
    rw [hmie] at htrap
    exact ⟨ht, htrap, k.pc, k.reservation, Hart.reg_congr k.regs, hmem, k.minstret⟩
  constructor
  · intro hplain
    have hnot : ¬(c = 0x8000000B ∧ s.cfg.fastRedirect = true) := by
      rintro ⟨hcode, hredirect⟩
      rcases hplain with h | h
      · rw [h] at hredirect
        cases hredirect
      · exact h hcode
    have htaken : (s.mapHart (Hart.withPause n)).takeInterrupt s.cur c = (s.mapHart (Hart.withPause n)).mapHart (Hart.takeInterrupt c) :=
      State.takeInterrupt_plain (s := s.mapHart (Hart.withPause n)) hnot
    have hhart : ((s.mapHart (Hart.withPause n)).mapHart (Hart.takeInterrupt c)).hart = (s.hart.withPause n).takeInterrupt c := by
      rw [State.hart_mapHart, State.hart_mapHart]
    obtain ⟨k, hpic⟩ := s.hart.takeInterrupt_interrupted n c
    rw [trapVector_interrupt _ (State.pendingInterrupt_code hc), ← hhart] at k
    refine ⟨_, take k rfl (hstep.trans ?_), by rw [hhart, hpic]⟩
    exact congrArg (fun t => Host.Outcome.next (State.complete t)) htaken
  · intro hredirect hcode best entry x nmi
    have hredirected : (s.mapHart (Hart.withPause n)).takeInterrupt s.cur c = (s.mapHart (Hart.withPause n)).redirect s.cur := by
      rw [State.takeInterrupt, hcode]
      exact if_pos hredirect
    have hcases := (s.mapHart (Hart.withPause n)).redirect_eq
    rw [State.tableEntry_withPause] at hcases
    have hgoes {code target : Word} {evs : List Nat} (e : (s.mapHart (Hart.withPause n)).redirect s.cur =
        (s.mapHart (Hart.withPause n)).claimed code target evs) :
        step s = .next ((s.mapHart (Hart.withPause n)).claimed code target evs).complete := by
      rw [← e, ← hredirected]
      exact hstep
    have finish {code target : Word} {evs : List Nat} (e : (s.mapHart (Hart.withPause n)).redirect s.cur =
        (s.mapHart (Hart.withPause n)).claimed code target evs) : ∃ t,
        t.hart.pic = { s.hart.pic with claimId := BitVec.ofNat 8 best.2, clidPri := best.1 } ∧ taken t code target :=
      ⟨_, s.claimed_pic n code target evs, take (s.claimed_interrupted n code target evs) rfl (hgoes e)⟩
    split_ifs with h1 h2 h3
    · exact finish (evs := []) (hcases.trans (if_pos h1))
    · exact finish (evs := []) (hcases.trans ((if_neg h1).trans ((if_neg (not_not.mpr h2)).trans (if_pos h3))))
    · exact finish (evs := [39]) (hcases.trans ((if_neg h1).trans ((if_neg (not_not.mpr h2)).trans (if_neg h3))))
    · exact finish (evs := []) (hcases.trans ((if_neg h1).trans (if_pos h2)))

end Sys2Proof.Machine
end

section
/-! PROOFS. What ends every step (10_state.md R44, R61; 20_memory.md R276; 70 R890): the frame of the clock ticks and of the draining
buffers. -/

namespace Sys2Proof.Machine

/-! ## Clock ticks -/

/-- What the ticks of a step change of a hart. -/
structure Hart.Ticked (h h' : Hart) : Prop where
  frame : h' = { h with
    ctr := h'.ctr, tim0 := h'.tim0, tim1 := h'.tim1
    nmi := { h.nmi with loadNow := h'.nmi.loadNow }
    power := { h.power with pauseCount := h'.power.pauseCount }
    dbg := { h.dbg with timeout := h'.dbg.timeout } }
  minstret : h'.ctr.minstret = h.ctr.minstret
  inhibit : h'.ctr.inhibit = h.ctr.inhibit

theorem Hart.Ticked.refl (h : Hart) : h.Ticked h := ⟨rfl, rfl, rfl⟩

theorem Hart.Ticked.trans {a b c : Hart} (h : a.Ticked b) (k : b.Ticked c) : a.Ticked c where
  frame := by rw [k.frame, h.frame]
  minstret := k.minstret.trans h.minstret
  inhibit := k.inhibit.trans h.inhibit

theorem Counters.keepWritten_minstret (c t : Counters) : (c.keepWritten t).minstret = t.minstret := by
  unfold Counters.keepWritten
  split
  · rfl
  · next i _ =>
    rcases i with _ | n
    · rfl
    · cases n <;> rfl

theorem Hart.tickCounters_minstret (h : Hart) (i k f : Nat) : (h.tickCounters i k f).minstret = h.ctr.minstret := by
  unfold Hart.tickCounters
  split
  · rfl
  · split <;> rfl

theorem Hart.ticked_tick (h : Hart) (i : Nat) (w : Bool) (k f : Nat) : h.Ticked (h.tick i w k f) where
  frame := rfl
  minstret := (Counters.keepWritten_minstret ..).trans (h.tickCounters_minstret i k f)
  inhibit := (Counters.keepWritten_inhibit ..).trans (h.tickCounters_inhibit i k f)

theorem Hart.ticked_ticks (h : Hart) (i : Nat) (w : Bool) (f n : Nat) : h.Ticked (h.ticks i w f n) := by
  induction n with
  | zero => exact .refl h
  | succ n ih =>
    unfold Hart.ticks
    split
    · exact .refl h
    · exact ih.trans (Hart.ticked_tick ..)

theorem Hart.Ticked.countersOn {h h' : Hart} (k : h.Ticked h') : h'.countersOn = h.countersOn := by
  rw [k.frame]
  rfl

/-- `mcycle` counts while the counters of the hart do and it is not inhibited (R43, R45). -/
def Hart.cycleOn (h : Hart) : Bool := h.countersOn && !h.ctr.inhibit.getLsbD 0

theorem Hart.Ticked.cycleOn {h h' : Hart} (k : h.Ticked h') : h'.cycleOn = h.cycleOn := by
  rw [Hart.cycleOn, k.countersOn, k.inhibit, Hart.cycleOn]

theorem Hart.tickCounters_mcycle (h : Hart) (i k f : Nat) :
    (h.tickCounters i k f).mcycle = if h.cycleOn then h.ctr.mcycle + 1 else h.ctr.mcycle := by
  unfold Hart.tickCounters Hart.cycleOn
  by_cases hsleep : h.activity = .sleep
  · have hoff : h.countersOn = false := by rw [Hart.countersOn, hsleep]
    rw [if_pos hsleep, hoff]
    rfl
  · rw [if_neg hsleep]
    cases h.countersOn with
    | false => rfl
    | true =>
      change addUnless _ _ _ = _
      unfold addUnless
      cases h.ctr.inhibit.getLsbD 0 <;> rfl

/-- One tick: the counter that a CSR instruction has just written does not count (R44). -/
theorem Hart.tick_mcycle (h : Hart) (i : Nat) (w : Bool) (k f : Nat) : (h.tick i w k f).ctr.written = none ∧
    (h.tick i w k f).ctr.mcycle =
      if h.cycleOn = true ∧ h.ctr.written ≠ some .cycle then h.ctr.mcycle + 1 else h.ctr.mcycle := by
  refine ⟨rfl, ?_⟩
  change (h.ctr.keepWritten (h.tickCounters i k f)).mcycle = _
  have hcounted := h.tickCounters_mcycle i k f
  unfold Counters.keepWritten
  cases h.ctr.written with
  | none =>
    rw [hcounted]
    cases h.cycleOn <;> rfl
  | some c =>
    cases c with
    | cycle => exact (if_neg fun e => e.2 rfl).symm
    | hpm n =>
      have hset : ((h.tickCounters i k f).set (.hpm n) (h.ctr.get (.hpm n))).mcycle = (h.tickCounters i k f).mcycle := by
        cases n <;> rfl
      change ((h.tickCounters i k f).set (.hpm n) (h.ctr.get (.hpm n))).mcycle = _
      rw [hset, hcounted]
      cases h.cycleOn <;> rfl

/-- The ticks of a step. -/
theorem Hart.ticks_mcycle (h : Hart) (i : Nat) (w : Bool) (f n : Nat) (hactive : h.activity ≠ .idle) :
    (h.ticks i w f (n + 1)).ctr.written = none ∧ (h.ticks i w f (n + 1)).ctr.mcycle =
      if h.cycleOn = true then h.ctr.mcycle + BitVec.ofNat 64 (if h.ctr.written = some .cycle then n else 1 + n) else h.ctr.mcycle := by
  have hstep (m : Nat) : h.ticks i w f (m + 1) = (h.ticks i w f m).tick i w m f := if_neg hactive
  induction n with
  | zero =>
    rw [hstep]
    obtain ⟨hwritten, hcycle⟩ := h.tick_mcycle i w 0 f
    refine ⟨hwritten, hcycle.trans ?_⟩
    cases h.cycleOn <;> by_cases hc : h.ctr.written = some .cycle <;> simp [hc]
  | succ n ih =>
    obtain ⟨hnone, hcycles⟩ := ih
    rw [hstep]
    obtain ⟨hwritten, hcycle⟩ := (h.ticks i w f (n + 1)).tick_mcycle i w (n + 1) f
    refine ⟨hwritten, hcycle.trans ?_⟩
    have hon := (h.ticked_ticks i w f (n + 1)).cycleOn
    have hnext (m : Nat) : h.ctr.mcycle + BitVec.ofNat 64 m + 1 = h.ctr.mcycle + BitVec.ofNat 64 (m + 1) := by
      rw [BitVec.ofNat_add, BitVec.add_assoc]
      rfl
    have hcount : (if h.ctr.written = some .cycle then n else 1 + n) + 1 = if h.ctr.written = some .cycle then n + 1 else 1 + (n + 1) := by
      split <;> omega
    rw [hon, hnone, hcycles, ← hcount, ← hnext]
    cases h.cycleOn <;> simp

/-! ## Draining buffers -/

/-- What a drain of hart `h`'s buffer may change: memory where one of its stores writes, the capture of an error, the buffer. -/
structure State.Drained (s : State) (h : HartId) (t : State) : Prop where
  frame : ∃ m n b, t = s.afterDrain h m n b
  nmi : s.BufferAnswered h → (t.hartAt h).nmi = (s.hartAt h).nmi
  mem : ∀ a : Word, (∀ p ∈ (s.hartAt h).buffer, p.covers a = false) → memRead t.mem a.toNat = memRead s.mem a.toNat

theorem PendingStore.covers_addrAt {p : PendingStore} {a : Word} {i : Nat} (hi : i < p.size) (ha : a.toNat = addrAt p.addr i) :
    p.covers a = true := by
  have haddr : a = p.addr + BitVec.ofNat 32 i := BitVec.eq_of_toNat_eq ha
  have hoffset : (a - p.addr).toNat = i % 2 ^ 32 := by
    rw [haddr, BitVec.add_comm, BitVec.add_sub_cancel, BitVec.toNat_ofNat]
  rw [PendingStore.covers, hoffset]
  exact decide_eq_true (lt_of_le_of_lt (Nat.mod_le ..) hi)

theorem State.drained_drain (s : State) (h : HartId) (n : Nat) : s.Drained h (s.drain h n) where
  frame := ⟨_, _, _, s.drain_frame h n⟩
  nmi hanswered := by
    unfold State.drain
    split
    · rfl
    · next p rest hb =>
      have hram := State.performStores_ram h ((p :: rest).take n) s fun q hq => hanswered q (hb ▸ List.mem_of_mem_take hq)
      rw [hram]
      cases h <;> rfl
  mem a ha := s.memRead_drain h n a.toNat fun p hp _ i hi hx => by
    have hcovers := PendingStore.covers_addrAt hi hx
    rw [ha p hp] at hcovers
    cases hcovers

theorem State.drained_self (s : State) (h : HartId) : s.Drained h s where
  frame := ⟨_, _, _, (s.afterDrain_self h).symm⟩
  nmi _ := rfl
  mem _ _ := rfl

theorem State.drained_drainFree (s : State) (h : HartId) : s.Drained h (s.drainFree h) := by
  unfold State.drainFree
  split
  · exact s.drained_self h
  · exact s.drained_drain h _

/-! ## The end of a step -/

/-- The executing hart's mark that it waits for Debug Mode is set anew. -/
def State.marked (s : State) (waits : Bool) : State := s.mapHart fun h => { h with dbg := { h.dbg with haltWaits := waits } }

theorem State.marked_hartAt (s : State) (waits : Bool) (h : HartId) : ∃ b,
    (s.marked waits).hartAt h = { s.hartAt h with dbg := { (s.hartAt h).dbg with haltWaits := b } } := by
  obtain ⟨cfg, cur, _⟩ := s
  cases cur <;> cases h
  case t0.t0 | t1.t1 => exact ⟨waits, rfl⟩
  case t0.t1 | t1.t0 => exact ⟨_, rfl⟩

/-- Both buffers drained as far as the environment lets them. -/
def State.drainedBoth (s : State) : State := (s.drainFree .t0).drainFree .t1

/-- What the draining of both buffers leaves. -/
structure State.BothDrained (s t : State) : Prop where
  frame : t = { s with mem := t.mem, harts := t.harts }
  harts : ∀ h, t.hartAt h = { s.hartAt h with nmi := (t.hartAt h).nmi, buffer := (t.hartAt h).buffer }
  nmi : ∀ h, s.BufferAnswered h → (t.hartAt h).nmi = (s.hartAt h).nmi
  mem : ∀ a : Word, (∀ k, ∀ p ∈ (s.hartAt k).buffer, p.covers a = false) → memRead t.mem a.toNat = memRead s.mem a.toNat

theorem State.bothDrained (s : State) : s.BothDrained s.drainedBoth := by
  obtain ⟨⟨m, n, b, hu⟩, hunmi, humem⟩ := s.drained_drainFree .t0
  obtain ⟨⟨m', n', b', ht⟩, htnmi, htmem⟩ := (s.drainFree .t0).drained_drainFree .t1
  have ht' : s.drainedBoth = (s.afterDrain .t0 m n b).afterDrain .t1 m' n' b' := by rw [← hu]; exact ht
  have hother : (s.drainFree .t0).hartAt .t1 = s.hartAt .t1 := by rw [hu]; rfl
  have hkept : s.drainedBoth.hartAt .t0 = (s.drainFree .t0).hartAt .t0 := by rw [ht', hu]; rfl
  refine ⟨by rw [ht']; rfl, fun h => ?_, fun h hanswered => ?_, fun a ha => ?_⟩
  · rw [ht']
    cases h <;> rfl
  · cases h with
    | t0 => rw [hkept, hunmi hanswered]
    | t1 =>
      refine (htnmi fun p hp => ?_).trans (congrArg Hart.nmi hother)
      rw [hother] at hp
      rw [hu]
      exact hanswered p hp
  · refine (htmem a fun p hp => ha .t1 p (hother ▸ hp)).trans (humem a (ha .t0))

theorem State.settleAs_eq (s : State) (waits : Bool) :
    s.settleAs waits = { ((s.marked waits).drainedBoth.passTime.handshakes) with cur := (s.settleAs waits).cur } := rfl

theorem State.settleAs_hartAt (s : State) (waits : Bool) (h : HartId) :
    (s.settleAs waits).hartAt h = (s.marked waits).drainedBoth.tickHart h := by
  rw [State.settleAs_eq]
  cases h <;> rfl

/-- An idle hart does not tick, and its counters do not count. -/
theorem Hart.ticks_mcycle_idle (h : Hart) (i : Nat) (w : Bool) (f n : Nat) (hidle : h.activity = .idle) :
    h.cycleOn = false ∧ (h.ticks i w f (n + 1)).ctr.mcycle = h.ctr.mcycle := by
  have hoff : h.countersOn = false := by rw [Hart.countersOn, hidle]
  refine ⟨by rw [Hart.cycleOn, hoff, Bool.false_and], ?_⟩
  rw [Hart.ticks, if_pos hidle]

theorem Hart.cycleOn_iff (h : Hart) : h.cycleOn = true ↔ h.countersOn = true ∧ h.ctr.inhibit.getLsbD 0 = false := by
  rw [Hart.cycleOn, Bool.and_eq_true, Bool.not_eq_true']

/-- What `settle` makes of a hart: the marks and the capture of an error are set, some stores leave the buffer, and the clock ticks. -/
theorem State.settle_hartAt (s : State) (h : HartId) : ∃ (b : Bool) (n : NmiRegs) (l : List PendingStore) (w : Bool),
    s.settle.hartAt h =
      ({ s.hartAt h with dbg := { (s.hartAt h).dbg with haltWaits := b }, nmi := n, buffer := l } : Hart).ticks h.number w
        s.env.fresh (s.env.extraTicks + 1) ∧
    (s.BufferAnswered h → n = (s.hartAt h).nmi) := by
  obtain ⟨hframe, hharts, hnmi, -⟩ := (s.marked false).bothDrained
  let d := (s.marked false).drainedBoth
  obtain ⟨b, hmarked⟩ := s.marked_hartAt false h
  have hd := hharts h
  rw [hmarked] at hd
  have henv : d.env = s.env := by
    have e := congrArg State.env hframe
    exact e
  have hsettle : s.settle.hartAt h = (d.hartAt h).ticks h.number (d.countsTimeout h) d.env.fresh (d.env.extraTicks + 1) := by
    rw [Nat.add_comm]
    exact s.settleAs_hartAt false h
  refine ⟨b, (d.hartAt h).nmi, (d.hartAt h).buffer, d.countsTimeout h, ?_, fun hanswered => (hnmi h ?_).trans ?_⟩
  · rw [hsettle, henv]
    exact congrArg (fun x : Hart => x.ticks h.number (d.countsTimeout h) s.env.fresh (s.env.extraTicks + 1)) hd
  · intro p hp
    rw [hmarked] at hp
    exact hanswered p hp
  · rw [hmarked]

theorem State.settle_mem (s : State) (a : Word) (ha : ∀ k, ∀ p ∈ (s.hartAt k).buffer, p.covers a = false) :
    memRead s.settle.mem a.toNat = memRead s.mem a.toNat := by
  refine (s.marked false).bothDrained.mem a fun k p hp => ha k p ?_
  obtain ⟨b, hmarked⟩ := s.marked_hartAt false k
  rw [hmarked] at hp
  exact hp

/-- `settle` leaves the rest of the machine, but for the PIC's gateways, the pins, the environment and the turn. -/
theorem State.settle_rest (s : State) : s.settle.shared = s.shared ∧ s.settle.icache = s.icache ∧ s.settle.cfg = s.cfg ∧
    s.settle.dm = s.dm ∧ s.settle.badWords = s.badWords := by
  have hframe := (s.marked false).bothDrained.frame
  have hshared := congrArg State.shared hframe
  have hicache := congrArg State.icache hframe
  have hcfg := congrArg State.cfg hframe
  have hdm := congrArg State.dm hframe
  have hbadWords := congrArg State.badWords hframe
  exact ⟨hshared, hicache, hcfg, hdm, hbadWords⟩

/-- Settles O47: the mark, the two drains and the ticks one after the other. -/
theorem settleFrame : Obligations.SettleFrame := by
  unfold Obligations.SettleFrame
  intro s h x y
  obtain ⟨b, n, l, w, hy, hn⟩ := s.settle_hartAt h
  let d : Hart := { x with dbg := { x.dbg with haltWaits := b }, nmi := n, buffer := l }
  have hyd : y = d.ticks h.number w s.env.fresh (s.env.extraTicks + 1) := hy
  have hticked : d.Ticked y := hyd.symm ▸ Hart.ticked_ticks ..
  have hframe : y = { d with
    ctr := y.ctr, tim0 := y.tim0, tim1 := y.tim1
    nmi := { n with loadNow := y.nmi.loadNow }
    power := { x.power with pauseCount := y.power.pauseCount }
    dbg := { d.dbg with timeout := y.dbg.timeout } } := hticked.frame
  have hwaits : y.dbg.haltWaits = b := congrArg (fun z : Hart => z.dbg.haltWaits) hframe
  have hbuffer : y.buffer = l := congrArg Hart.buffer hframe
  have hnmi : y.nmi = { n with loadNow := y.nmi.loadNow } := congrArg Hart.nmi hframe
  have hcycle : y.ctr.mcycle = if x.countersOn = true ∧ x.ctr.inhibit.getLsbD 0 = false then
      x.ctr.mcycle + BitVec.ofNat 64 (if x.ctr.written = some .cycle then s.env.extraTicks else 1 + s.env.extraTicks)
      else x.ctr.mcycle := by
    have hon : d.cycleOn = x.cycleOn := rfl
    have hiff := x.cycleOn_iff
    by_cases hidle : d.activity = .idle
    · obtain ⟨hoff, hsame⟩ := d.ticks_mcycle_idle h.number w s.env.fresh s.env.extraTicks hidle
      have hnot : ¬x.cycleOn = true := by rw [← hon, hoff]; exact Bool.false_ne_true
      rw [if_neg fun e => hnot (hiff.mpr e), hyd]
      exact hsame
    · obtain ⟨-, hcounts⟩ := d.ticks_mcycle h.number w s.env.fresh s.env.extraTicks hidle
      rw [hyd]
      exact hcounts.trans (if_congr hiff rfl rfl)
  obtain ⟨hshared, hicache, hcfg, hdm, hbadWords⟩ := s.settle_rest
  refine ⟨?_, hshared, hicache, hcfg, hdm, hbadWords, hticked.minstret, hcycle, s.settle_mem, fun hanswered => ?_⟩
  · rw [hwaits, hbuffer, hnmi]
    exact hframe
  · rw [← hn hanswered]
    exact hnmi

end Sys2Proof.Machine
end

section
/-! PROOFS. Debug Mode: a halt request, a resume, a halted hart, and the access-register command (62 R812, R813, R832 to R836; 12 R240). -/

namespace Sys2Proof.Machine

/-! ## Entering and leaving Debug Mode -/

theorem State.tryHalt_of_quiet {s : State} (h : s.busBusy s.cur = false) (cause : BitVec 3) (own : Bool) :
    s.tryHalt cause own = (s.haltNow cause own).settle := by
  rw [State.tryHalt, h]
  rfl

theorem State.haltNow_hart (s : State) (cause : BitVec 3) (own : Bool) : (s.haltNow cause own).hart =
    { s.hart with nmi := ((s.drainAll s.cur).hartAt s.cur).nmi, buffer := [] }.enterDebug s.cfg cause s.pc
      (s.dm.haltReq.get s.cur || own) := by
  have hhart : (s.drainAll s.cur).hart = { s.hart with nmi := ((s.drainAll s.cur).hartAt s.cur).nmi, buffer := [] } := by
    have e := s.drainAll_hartAt s.cur
    rw [State.hart, State.drainAll_cur]
    exact e
  rw [State.haltNow, State.hart_mapHart, hhart]
  rfl

theorem State.debugTrigger_unarmed {s : State} (h : s.hart.trig.armed = false) : s.debugTrigger = none := by
  rw [State.debugTrigger, h]
  simp

/-- Settles O50: the request comes first at the boundary, and the hart is quiet. -/
theorem haltRequestsEnterDebugMode : Obligations.HaltRequestsEnterDebugMode := by
  unfold Obligations.HaltRequestsEnterDebugMode
  intro s build hart inputs outOfReset active noStep request unarmed idle answered
  have hbusy := (State.quiet_of_answered answered).2.2.2
  have hrequested : s.haltRequested s.cur = true := by rw [State.haltRequested, request, Bool.true_or]
  have hstep : step s = .next (s.haltNow debugCauseHaltReq false).settle := by
    rw [State.step_eq_hartStep build hart inputs outOfReset, State.hartStep, active]
    change s.running = _
    rw [State.running, idle]
    change s.atBoundary = _
    rw [State.atBoundary, noStep, hrequested, State.debugTrigger_unarmed unarmed, State.tryHalt_of_quiet hbusy]
    rfl
  have hhalted := s.haltNow_hart debugCauseHaltReq false
  refine ⟨_, hstep, ?_, ?_, ?_, ?_, ?_, ?_, ?_, ?_, ?_, rfl⟩
  · rw [hhalted]; rfl
  · rw [hhalted]; rfl
  · rw [hhalted]; rfl
  · rw [hhalted]; rfl
  · rw [hhalted, request]
    exact Bool.or_true _
  · rw [hhalted]; rfl
  · intro r
    rw [State.reg, hhalted]
    exact Hart.reg_congr rfl r
  · rw [hhalted]; rfl
  · rw [hhalted]; rfl

theorem State.tryResume_eq {s : State} {h : HartId} (halted : (s.hartAt h).activity = .dbHalt)
    (may : (s.hartAt h).dbg.mayResume = true) (held : (s.hartAt h).dbg.dbgHaltState = true) :
    s.tryResume h = { s.mapHartAt h Hart.resume with dm := { s.dm with resumeAck := s.dm.resumeAck.set h true } } := by
  rw [State.tryResume]
  simp only [halted, may, held, decide_true, Bool.and_self, Bool.or_true, if_true]

/-- The debugger's resume request and the resume of a hart that only the debugger holds. -/
theorem State.requestResume_eq {s : State} {h : HartId} (halted : (s.hartAt h).activity = .dbHalt)
    (held : (s.hartAt h).dbg.dbgHaltState = true) (noMpc : (s.hartAt h).dbg.mpcHaltState = false) :
    ∃ d, d.resumeAck.get h = true ∧ s.requestResume h =
      { s.mapHartAt h (fun y => ({ y with dbg := { y.dbg with resumePending := true } } : Hart).resume) with dm := d } := by
  have hhart (u : State) (f : Hart → Hart) : (u.mapHartAt h f).hartAt h = f (u.hartAt h) := by cases h <;> rfl
  have hresumes : ({ (s.hartAt h).dbg with resumePending := true } : DebugRegs).mayResume = true := by
    simp [DebugRegs.mayResume, held, noMpc]
  let asked : State :=
    { s with dm := { s.dm with resumeAck := s.dm.resumeAck.set h false } }.mapHartAt h fun y =>
      { y with dbg := { y.dbg with resumePending := true } }
  have hasked : asked.hartAt h = { s.hartAt h with dbg := { (s.hartAt h).dbg with resumePending := true } } := hhart _ _
  have hfirst : s.requestResume h = asked.tryResume h := by
    rw [State.requestResume, halted, held]
    rfl
  have hsecond : asked.tryResume h = { asked.mapHartAt h Hart.resume with
      dm := { asked.dm with resumeAck := asked.dm.resumeAck.set h true } } := by
    refine State.tryResume_eq ?_ ?_ ?_
    · rw [hasked]
      exact halted
    · rw [hasked]
      exact hresumes
    · rw [hasked]
      exact held
  refine ⟨{ asked.dm with resumeAck := asked.dm.resumeAck.set h true }, ?_, (hfirst.trans hsecond).trans ?_⟩
  · cases h <;> rfl
  · cases h <;> rfl

/-- Settles O51. -/
theorem resumeLeavesDebugMode : Obligations.ResumeLeavesDebugMode := by
  unfold Obligations.ResumeLeavesDebugMode
  intro s h halted held noMpc noSleep t
  obtain ⟨d, hack, ht⟩ := State.requestResume_eq halted held noMpc
  have hhart : t.hartAt h = ({ s.hartAt h with dbg := { (s.hartAt h).dbg with resumePending := true } } : Hart).resume := by
    change (s.requestResume h).hartAt h = _
    rw [ht]
    cases h <;> rfl
  have hother : t.hartAt h.other = s.hartAt h.other := by
    change (s.requestResume h).hartAt h.other = _
    rw [ht]
    cases h <;> rfl
  have hstep : ((s.hartAt h).dbg.step && (s.hartAt h).dbg.dbgHaltState) = (s.hartAt h).dbg.step := by rw [held, Bool.and_true]
  have hactive : (t.hartAt h).activity = .running := by
    rw [hhart, Hart.resume, noSleep]
    simp
  refine ⟨hactive, ?_, ?_, ?_, ?_, ?_, ?_, hother, ?_⟩
  · rw [hhart]; rfl
  · rw [hhart]
    exact hstep
  · rw [Hart.debugModeStatus, hactive, hhart]
    exact (Bool.or_false _).trans ((Bool.false_or _).trans hstep)
  · rw [hhart]; rfl
  · rw [hhart]; rfl
  · change (s.requestResume h).dm.resumeAck.get h = true
    rw [ht]
    exact hack
  · change (s.requestResume h).mem = s.mem
    rw [ht]
    rfl

/-! ## A halted hart -/

/-- What `settle` keeps of a hart, whatever waits. -/
theorem State.settle_keeps (s : State) (h : HartId) : (s.settle.hartAt h).activity = (s.hartAt h).activity ∧
    (s.settle.hartAt h).regs = (s.hartAt h).regs ∧ (s.settle.hartAt h).pc = (s.hartAt h).pc ∧
    (s.settle.hartAt h).trap = (s.hartAt h).trap ∧ (s.settle.hartAt h).ctr.minstret = (s.hartAt h).ctr.minstret := by
  obtain ⟨hframe, -, -, -, -, -, hminstret, -⟩ := settleFrame s h
  have hactivity := congrArg Hart.activity hframe
  have hregs := congrArg Hart.regs hframe
  have hpc := congrArg Hart.pc hframe
  have htrap := congrArg Hart.trap hframe
  exact ⟨hactivity, hregs, hpc, htrap, hminstret⟩

theorem State.halting_keeps (s : State) : (s.halting.hartAt s.cur).activity = s.hart.activity ∧
    (s.halting.hartAt s.cur).regs = s.hart.regs ∧ (s.halting.hartAt s.cur).pc = s.hart.pc ∧
    (s.halting.hartAt s.cur).trap = s.hart.trap ∧ (s.halting.hartAt s.cur).ctr.minstret = s.hart.ctr.minstret := by
  have hkeeps := (s.mapHart fun h =>
    if h.power.mpcHaltPending then
      { h with power := { h.power with mpcHaltPending := false }, dbg := { h.dbg with mpcHaltState := true } }
    else h).settle_keeps s.cur
  have hhart (f : Hart → Hart) : (s.mapHart f).hartAt s.cur = f s.hart := State.hart_mapHart s f
  rw [hhart] at hkeeps
  cases hpending : s.hart.power.mpcHaltPending
  · rw [if_neg (hpending ▸ Bool.false_ne_true)] at hkeeps
    exact hkeeps
  · rw [if_pos hpending] at hkeeps
    exact hkeeps

/-- Settles O52: such a step is the end of a step at most. -/
theorem haltedHartsDoNotExecute : Obligations.HaltedHartsDoNotExecute := by
  unfold Obligations.HaltedHartsDoNotExecute
  intro s t halted inputs hstep
  have hkept : s.hart.activity = .dbHalt ∧ s.hart.regs = s.hart.regs ∧ s.hart.pc = s.hart.pc ∧ s.hart.trap = s.hart.trap ∧
      s.hart.ctr.minstret = s.hart.ctr.minstret := ⟨halted, rfl, rfl, rfl, rfl⟩
  change s.stepOnce = _ at hstep
  unfold State.stepOnce at hstep
  rw [inputs] at hstep
  split at hstep
  · dsimp only at hstep
    unfold State.harts? at hstep
    split at hstep
    · cases hstep
    split at hstep
    · cases hstep
      exact hkept
    · rw [State.hartStep, halted] at hstep
      cases hstep
      rw [← halted]
      exact s.halting_keeps
  · cases hstep

/-! ## The access-register command -/

/-- The fields of a command word that reads or writes the general register `r` (12 R240). -/
structure RegisterCommand (cmd : Word) (r : RegIdx) (isWrite : Bool) : Prop where
  type : cmd.extractLsb' 24 8 = 0
  postexec : cmd.getLsbD 18 = false
  transfer : cmd.getLsbD 17 = true
  write : cmd.getLsbD 16 = isWrite
  size : cmd.extractLsb' 20 3 = 2
  noCsr : (cmd.extractLsb' 0 16).extractLsb' 12 4 ≠ 0
  general : (cmd.extractLsb' 0 16).extractLsb' 5 11 = 0x80
  register : (cmd.extractLsb' 0 16).extractLsb' 0 5 = r

theorem registerCommand (isWrite : Bool) (r : RegIdx) :
    RegisterCommand (BitVec.ofNat 32 (cond isWrite 0x00231000 0x00221000 + r.toNat)) r isWrite := by
  have fields : ∀ (w : Bool) (r : BitVec 5), let cmd : Word := BitVec.ofNat 32 (cond w 0x00231000 0x00221000 + r.toNat)
      cmd.extractLsb' 24 8 = 0 ∧ cmd.getLsbD 18 = false ∧ cmd.getLsbD 17 = true ∧ cmd.getLsbD 16 = w ∧
      cmd.extractLsb' 20 3 = 2 ∧ (cmd.extractLsb' 0 16).extractLsb' 12 4 ≠ 0 ∧
      (cmd.extractLsb' 0 16).extractLsb' 5 11 = 0x80 ∧ (cmd.extractLsb' 0 16).extractLsb' 0 5 = r := by decide
  obtain ⟨htype, hpostexec, htransfer, hwrite, hsize, hnoCsr, hgeneral, hregister⟩ := fields isWrite r
  exact ⟨htype, hpostexec, htransfer, hwrite, hsize, hnoCsr, hgeneral, hregister⟩

theorem State.accessRegister_general {cmd : Word} {r : RegIdx} {isWrite : Bool} (c : RegisterCommand cmd r isWrite) (s : State)
    (h : HartId) : s.accessRegister h cmd =
      if isWrite then .ok ((s.mapHartAt h fun x => x.setReg r s.dm.data0).registerDone cmd (freeAbstractData 0 s.env.fresh))
      else .ok (s.registerDone cmd ((s.hartAt h).reg r)) := by
  have hsize : (cmd.extractLsb' 20 3 != 2) = false := by
    rw [c.size]
    rfl
  rw [State.accessRegister]
  simp only [c.postexec, c.transfer, hsize, if_neg c.noCsr, if_pos c.general, c.write, c.register, Bool.false_eq_true, if_false,
    Bool.not_true]

/-- A write to `command` while no error is set: a command that executes is not disturbed, else the new one is run (R240). -/
theorem State.dmiWrite_command {s : State} (active : s.dm.dmactive = true) (noError : s.dm.cmderr = 0) (w : Word) :
    s.dmiWrite 0x17 w =
      if s.dm.running.isSome then .ok s.commandBusy else { s with dm := { s.dm with command := w } }.runCommand := by
  have hactive : ¬(!s.dm.dmactive) = true := by rw [active]; exact Bool.false_ne_true
  have hclear : ¬(s.dm.cmderr != 0) = true := by rw [noError]; exact Bool.false_ne_true
  rw [State.dmiWrite, if_neg (by decide), if_neg hactive]
  change (if s.dm.running.isSome = true then _ else if (s.dm.cmderr != 0) = true then _ else _) = _
  rw [if_neg hclear]

/-- Settles O53: the command is decoded, and only the Debug Module and the one register are written. -/
theorem debuggerAccessesRegisters : Obligations.DebuggerAccessesRegisters := by
  unfold Obligations.DebuggerAccessesRegisters
  intro s r active noError h command
  have hcommand (w : Nat) : command w = _ := State.dmiWrite_command active noError (BitVec.ofNat 32 (w + r.toNat))
  refine ⟨fun hruns => ?_, fun hidle hfast => ?_⟩
  · rw [hcommand, if_pos hruns, State.commandBusy, DebugModule.noteError, if_pos noError]
  · let given (w : Nat) : State := { s with dm := { s.dm with command := BitVec.ofNat 32 (w + r.toNat) } }
    have hrun (w : Nat) : command w = (given w).execCommand h := by
      rw [hcommand, hidle]
      change (given w).runCommand = _
      rw [State.runCommand]
      have herror : ((given w).dm.cmderr != 0) = false := by
        change (s.dm.cmderr != 0) = false
        rw [noError]
        rfl
      have hslow : (given w).env.slowDebug = false := hfast
      simp only [herror, hslow, Bool.false_eq_true, if_false]
      rfl
    have hdecoded {w : Nat} {isWrite : Bool} (c : RegisterCommand (BitVec.ofNat 32 (w + r.toNat)) r isWrite) : command w =
        if !s.halted h then .ok ((given w).commandError 4) else (given w).accessRegister h (BitVec.ofNat 32 (w + r.toNat)) := by
      rw [hrun, State.execCommand]
      have htype : (given w).dm.command.extractLsb' 24 8 = 0 := c.type
      simp only [htype, if_true]
      rfl
    refine ⟨fun halted => ⟨?_, ?_⟩, fun running => ?_⟩
    · have hdone := hdecoded (registerCommand false r)
      rw [halted, State.accessRegister_general (registerCommand false r)] at hdone
      exact ⟨_, hdone, rfl, noError, rfl⟩
    · have hdone := hdecoded (registerCommand true r)
      rw [halted, State.accessRegister_general (registerCommand true r)] at hdone
      have hwritten : ((given 0x00231000).mapHartAt h fun x => x.setReg r s.dm.data0).hartAt h = (s.hartAt h).setReg r s.dm.data0 :=
        State.hartAt_mapHartAt_same ..
      refine ⟨_, hdone, noError, fun q => ?_, ?_⟩
      · exact (congrArg (fun x : Hart => x.reg q) hwritten).trans (Hart.reg_setReg ..)
      · refine State.mapHartAt_congr s h (fun x => x.setReg r s.dm.data0) _ ?_
        change _ = { s.hartAt h with regs := (((given 0x00231000).mapHartAt h fun x => x.setReg r s.dm.data0).hartAt h).regs }
        rw [hwritten]
        unfold Hart.setReg
        split <;> rfl
    · have hfails := hdecoded (registerCommand false r)
      rw [running] at hfails
      refine ⟨_, hfails, ?_, rfl⟩
      change (if s.dm.cmderr = 0 then 4 else s.dm.cmderr) = 4
      rw [if_pos noError]

end Sys2Proof.Machine
end

section
/-! PROOFS. The memory-mapped registers of the PIC (12_state_pic_debug_regs.md R181 to R190; 61_pic.md R723, R724). -/

namespace Sys2Proof.Machine

/-! ## `sw` and `lw` on the block -/

theorem State.picWrite_eq (s : State) (off : Nat) (v : Word) : s.picWrite off v = { s with pic := (s.picWrite off v).pic } := rfl

/-- A word store to a register of the block changes the PIC and retires. -/
theorem State.sw_pic {s : State} {rs rb : RegIdx} {imm : BitVec 12} {off : Nat} (build : configOk s.cfg = true)
    (base : coreLocal s.cfg (s.reg rb).toNat = true) (addr : (s.reg rb + imm.signExtend 32).toNat = picBase s.cfg + off)
    (aligned : off % 4 = 0) (inside : off < 0x8000) {p : Pic} (hp : (s.picWrite off (s.reg rs)).pic = p) :
    ∃ t, exec (.sw rs rb imm) s = .next t ∧ Retires s t 4 ∧
      t = { s.mapHart fun h => { h with pc := t.hart.pc, ctr := t.hart.ctr } with pic := p } := by
  let a := s.reg rb + sext12 imm
  obtain ⟨hpass, hdccm, hpic⟩ := s.accessFault_pic true (s.reg rb) a off build base addr aligned inside
  have hoff : a.toNat - picBase s.cfg = off := by
    change (s.reg rb + imm.signExtend 32).toNat - picBase s.cfg = off
    omega
  have hwrite : s.writeChecked a (s.reg rs) 4 = { s with pic := p } := by
    rw [State.writeChecked, hdccm, hpic, hoff, State.picWrite_eq, hp]
    rfl
  let evs := s.storeEvents a 4
  let f : Hart → Hart := fun h => h.retire 4 evs
  have hrun : exec (.sw rs rb imm) s = .next { s.mapHart f with pic := p } := by
    refine congrArg Host.Outcome.next ((State.storeInstr_passes hpass 4 (s.reg rs)).trans ?_)
    rw [hwrite]
    rfl
  have hhart : ({ s.mapHart f with pic := p } : State).hart = f s.hart := State.hart_mapHart s f
  refine ⟨_, hrun, ?_, ?_⟩
  · have k := retires_mapHart (s := s) (f := f) (len := 4) (e := evs) rfl rfl rfl
    exact ⟨k.registers, k.pc, k.counted⟩
  · rw [hhart]
    exact congrArg (fun u : State => { u with pic := p }) (State.mapHart_congr s _ _ rfl)

/-- A word load of a register of the block. -/
theorem State.lw_pic {s : State} {rd rb : RegIdx} {imm : BitVec 12} {off : Nat} (build : configOk s.cfg = true)
    (base : coreLocal s.cfg (s.reg rb).toNat = true) (addr : (s.reg rb + imm.signExtend 32).toNat = picBase s.cfg + off)
    (aligned : off % 4 = 0) (inside : off < 0x8000) {w : Word} (hw : s.picRead s.cur off = w) :
    ∃ t, exec (.lw rd rb imm) s = .next t ∧ Computes s t 4 rd w := by
  let a := s.reg rb + sext12 imm
  obtain ⟨hpass, hdccm, hpic⟩ := s.accessFault_pic false (s.reg rb) a off build base addr aligned inside
  have hoff : a.toNat - picBase s.cfg = off := by
    change (s.reg rb + imm.signExtend 32).toNat - picBase s.cfg = off
    omega
  have hread := s.readChecked_pic a 4 hdccm hpic
  have hrun : exec (.lw rd rb imm) s = .next (s.writeBack 4 (s.loadEvents a 4) rd w) := by
    refine congrArg Host.Outcome.next ((State.loadInstr_passes hpass 4 rd id).trans ?_)
    rw [hread, hoff, hw]
    rfl
  exact ⟨_, hrun, s.writeBack_computes ..⟩

/-! ## The registers of a source -/

theorem prioView_eq (r : Bool) (n : BitVec 4) : prioView r n = if r then 15 - n else n := by
  have hnot : ∀ n : BitVec 4, ~~~n = 15 - n := by decide
  rw [prioView, hnot]

theorem setWidth_ofBool (b : Bool) : (BitVec.ofBool b).setWidth 32 = BitVec.ofNat 32 b.toNat := by cases b <;> rfl

theorem setWidth_ofBool_append (a b : Bool) : (BitVec.ofBool a ++ BitVec.ofBool b).setWidth 32 =
    BitVec.ofNat 32 (2 * a.toNat + b.toNat) := by cases a <;> cases b <;> rfl

/-- An offset of the block by its page of 4 KB and its word in it. -/
theorem pic_offset {page word : Nat} (h : word < 1024) :
    (4096 * page + 4 * word) / 4096 = page ∧ (4096 * page + 4 * word) / 4 % 1024 = word := by omega

section source
variable {s : State} {k : Nat} {x : Source} (hx : s.pic.sources[k]? = some x) (hk : k < 255) (v : Word)

/-- The PIC with its source `k + 1` replaced. -/
def Pic.withSource (p : Pic) (k : Nat) (y : Source) : Pic := { p with sources := p.sources.set k y }

include hx hk

theorem State.picWrite_priority : (s.picWrite (4096 * 0 + 4 * (k + 1)) v).pic =
    s.pic.withSource k { x with pri := prioView s.pic.priord (v.setWidth 4) } := by
  obtain ⟨hpage, hword⟩ := pic_offset (page := 0) (word := k + 1) (by omega)
  unfold State.picWrite
  rw [hpage, hword]
  exact Pic.mapSource_succ _ _ _ _ hx

theorem State.picWrite_enable : (s.picWrite (4096 * 2 + 4 * (k + 1)) v).pic = s.pic.withSource k { x with en := v.getLsbD 0 } := by
  obtain ⟨hpage, hword⟩ := pic_offset (page := 2) (word := k + 1) (by omega)
  unfold State.picWrite
  rw [hpage, hword]
  exact Pic.mapSource_succ _ _ _ _ hx

theorem State.picWrite_gateway : ∃ ip, (v.getLsbD 1 = false → ip = x.ip) ∧ (s.picWrite (4096 * 4 + 4 * (k + 1)) v).pic =
    s.pic.withSource k { x with edge := v.getLsbD 1, low := v.getLsbD 0, ip := ip } := by
  obtain ⟨hpage, hword⟩ := pic_offset (page := 4) (word := k + 1) (by omega)
  refine ⟨if v.getLsbD 1 then freeGatewayPending (k + 1) s.env.fresh else x.ip, fun h => by rw [h]; rfl, ?_⟩
  unfold State.picWrite
  rw [hpage, hword]
  exact Pic.mapSource_succ _ _ _ _ hx

theorem State.picWrite_clear : (s.picWrite (4096 * 5 + 4 * (k + 1)) v).pic = s.pic.withSource k { x with ip := x.sync != x.low } := by
  obtain ⟨hpage, hword⟩ := pic_offset (page := 5) (word := k + 1) (by omega)
  unfold State.picWrite
  rw [hpage, hword]
  exact Pic.mapSource_succ _ _ _ _ hx

theorem State.picWrite_delegate : (s.picWrite (4096 * 6 + 4 * (k + 1)) v).pic =
    if s.cfg.dualThread then s.pic.withSource k { x with del := v.getLsbD 0 } else s.pic := by
  obtain ⟨hpage, hword⟩ := pic_offset (page := 6) (word := k + 1) (by omega)
  unfold State.picWrite
  rw [hpage, hword]
  change (if s.cfg.dualThread = true then _ else _) = _
  split
  · exact Pic.mapSource_succ _ _ _ _ hx
  · rfl

omit hk in
/-- A field of source `k + 1` as it is read. -/
theorem Pic.source?_succ : s.pic.source? (k + 1) = some x := hx

theorem State.picRead_priority (h : HartId) : s.picRead h (4096 * 0 + 4 * (k + 1)) = (prioView s.pic.priord x.pri).setWidth 32 := by
  obtain ⟨hpage, hword⟩ := pic_offset (page := 0) (word := k + 1) (by omega)
  unfold State.picRead
  simp only [hpage, hword, Pic.source?_succ hx]

theorem State.picRead_enable (h : HartId) : s.picRead h (4096 * 2 + 4 * (k + 1)) = BitVec.ofNat 32 x.en.toNat := by
  obtain ⟨hpage, hword⟩ := pic_offset (page := 2) (word := k + 1) (by omega)
  unfold State.picRead
  simp only [hpage, hword, Pic.source?_succ hx, setWidth_ofBool]

theorem State.picRead_gateway (h : HartId) : s.picRead h (4096 * 4 + 4 * (k + 1)) =
    BitVec.ofNat 32 (2 * x.edge.toNat + x.low.toNat) := by
  obtain ⟨hpage, hword⟩ := pic_offset (page := 4) (word := k + 1) (by omega)
  unfold State.picRead
  simp only [hpage, hword, Pic.source?_succ hx, setWidth_ofBool_append]

omit hx in
theorem State.picRead_clear (h : HartId) : s.picRead h (4096 * 5 + 4 * (k + 1)) = 0 := by
  obtain ⟨hpage, hword⟩ := pic_offset (page := 5) (word := k + 1) (by omega)
  unfold State.picRead
  simp only [hpage]

theorem State.picRead_delegate (h : HartId) : s.picRead h (4096 * 6 + 4 * (k + 1)) =
    if s.cfg.dualThread then BitVec.ofNat 32 x.del.toNat else 0 := by
  obtain ⟨hpage, hword⟩ := pic_offset (page := 6) (word := k + 1) (by omega)
  unfold State.picRead
  simp only [hpage, hword, Pic.source?_succ hx, setWidth_ofBool]

end source

/-! ## The registers of the core -/

theorem State.picWrite_order (s : State) (v : Word) : (s.picWrite 0x3000 v).pic = { s.pic with priord := v.getLsbD 0 } := rfl

theorem State.picRead_order (s : State) (h : HartId) : s.picRead h 0x3000 = BitVec.ofNat 32 s.pic.priord.toNat :=
  setWidth_ofBool _

/-- A store to a pending register is dropped. -/
theorem State.picWrite_pending (s : State) {n : Nat} (hn : n < 1024) (v : Word) : (s.picWrite (4096 * 1 + 4 * n) v).pic = s.pic := by
  obtain ⟨hpage, hword⟩ := pic_offset (page := 1) hn
  unfold State.picWrite
  simp only [hpage]

theorem State.picRead_pending (s : State) (h : HartId) {n : Nat} (hn : n < 8) :
    s.picRead h (4096 * 1 + 4 * n) = s.pic.pendingWord n fun _ => true := by
  obtain ⟨hpage, hword⟩ := pic_offset (page := 1) (word := n) (by omega)
  unfold State.picRead
  simp only [hpage, hword, hn, if_true]

theorem State.picRead_ownPending (s : State) (h : HartId) {n : Nat} (hn : n < 8) : s.picRead h (4096 * 1 + 4 * (512 + n)) =
    if s.cfg.dualThread then s.pic.pendingWord n fun x => x.target s.cfg.dualThread == h else 0 := by
  obtain ⟨hpage, hword⟩ := pic_offset (page := 1) (word := 512 + n) (by omega)
  have hfar : ¬512 + n < 8 := by omega
  have hword' : 512 + n - 512 = n := by omega
  have hrange : (512 ≤ 512 + n ∧ 512 + n < 520 ∧ s.cfg.dualThread = true) ↔ s.cfg.dualThread = true :=
    ⟨fun h => h.2.2, fun h => ⟨by omega, by omega, h⟩⟩
  unfold State.picRead
  simp only [hpage, hword, hfar, if_false, hword', hrange]

/-- The bits of a pending register. -/
theorem Pic.pendingWord_bit (p : Pic) (n : Nat) {shown shown' : Source → Bool} (hshown : ∀ x, shown x = shown' x) {y : Nat}
    (hy : y < 32) :
    (p.pendingWord n shown).getLsbD y = true ↔ ∃ k x, k + 1 = 32 * n + y ∧ p.sources[k]? = some x ∧
      (if x.edge then x.ip else x.sync != x.low) = true ∧ shown' x = true := by
  rw [p.getLsbD_pendingWord n y shown hy]
  cases hsource : 32 * n + y with
  | zero => exact ⟨fun h => (nomatch h), fun ⟨k, _, hk, _⟩ => (nomatch hk)⟩
  | succ j =>
    change (match p.sources[j]? with | some x => x.req && shown x | none => false) = true ↔ _
    constructor
    · intro h
      cases hx : p.sources[j]? with
      | none => rw [hx] at h; cases h
      | some x =>
        rw [hx] at h
        obtain ⟨hreq, hshow⟩ := (Bool.and_eq_true _ _).mp h
        exact ⟨j, x, rfl, hx, hreq, hshown x ▸ hshow⟩
    · rintro ⟨k, x, hk, hx, hreq, hshow⟩
      cases Nat.succ.inj hk
      rw [hx]
      exact (Bool.and_eq_true _ _).mpr ⟨hreq, (hshown x).trans hshow⟩

/-- In a dual-thread build a source is delivered to the hart that its delegation bit names (R189). -/
theorem Source.target_dual (x : Source) (h : HartId) : (x.target true == h) = (x.del == decide (h = .t1)) := by
  unfold Source.target
  cases x.del <;> cases h <;> rfl

/-- Settles O31: each register is a page of the block and a word in it. -/
theorem picRegisters : Obligations.PicRegisters := by
  unfold Obligations.PicRegisters
  intro s rs rd rb imm build base a v ordered stores loads pending showsPending
  have hordered (n : BitVec 4) : prioView s.pic.priord n = ordered n := prioView_eq _ n
  have store (page word : Nat) {p : Pic} (hpage : page < 8) (hword : word < 1024) (ha : a = picBase s.cfg + 4096 * page + 4 * word)
      (hp : (s.picWrite (4096 * page + 4 * word) v).pic = p) : stores p :=
    State.sw_pic build base (ha.trans (Nat.add_assoc ..)) (by omega) (by omega) hp
  have load (page word : Nat) {w : Word} (hpage : page < 8) (hword : word < 1024) (ha : a = picBase s.cfg + 4096 * page + 4 * word)
      (hw : s.picRead s.cur (4096 * page + 4 * word) = w) : loads w :=
    State.lw_pic build base (ha.trans (Nat.add_assoc ..)) (by omega) (by omega) hw
  refine ⟨?source, ?order, ?pending⟩
  case source =>
    intro k x hx hk source
    have hword : k + 1 < 1024 := by omega
    refine ⟨fun ha => ?_, fun ha => ?_, fun ha => ?_, fun ha => ?_, fun ha => ?_⟩
    · have ha0 : a = picBase s.cfg + 4096 * 0 + 4 * (k + 1) := by omega
      rw [← hordered, ← hordered]
      exact ⟨store 0 (k + 1) (by decide) hword ha0 (State.picWrite_priority hx hk v),
        load 0 (k + 1) (by decide) hword ha0 (State.picRead_priority hx hk s.cur)⟩
    · exact ⟨store 2 (k + 1) (by decide) hword ha (State.picWrite_enable hx hk v),
        load 2 (k + 1) (by decide) hword ha (State.picRead_enable hx hk s.cur)⟩
    · obtain ⟨ip, hip, hwrite⟩ := State.picWrite_gateway hx hk v
      exact ⟨⟨ip, hip, store 4 (k + 1) (by decide) hword ha hwrite⟩,
        load 4 (k + 1) (by decide) hword ha (State.picRead_gateway hx hk s.cur)⟩
    · exact ⟨store 5 (k + 1) (by decide) hword ha (State.picWrite_clear hx hk v),
        load 5 (k + 1) (by decide) hword ha (State.picRead_clear hk s.cur)⟩
    · exact ⟨store 6 (k + 1) (by decide) hword ha (State.picWrite_delegate hx hk v),
        load 6 (k + 1) (by decide) hword ha (State.picRead_delegate hx hk s.cur)⟩
  case order =>
    exact fun ha => ⟨store 3 0 (by decide) (by decide) ha (s.picWrite_order v),
      load 3 0 (by decide) (by decide) ha (s.picRead_order s.cur)⟩
  case pending =>
    intro n hn
    refine ⟨fun ha => ?_, fun ha => ?_⟩
    · have hword : n < 1024 := by omega
      refine ⟨store 1 n (by decide) hword ha (s.picWrite_pending hword v), _,
        load 1 n (by decide) hword ha (s.picRead_pending s.cur hn), ?_⟩
      exact fun y hy => s.pic.pendingWord_bit n (fun _ => rfl) hy
    · have hword : 512 + n < 1024 := by omega
      have ha' : a = picBase s.cfg + 4096 * 1 + 4 * (512 + n) := by omega
      have hread := s.picRead_ownPending s.cur hn
      refine ⟨store 1 (512 + n) (by decide) hword ha' (s.picWrite_pending hword v), fun hdual => ?_, fun hsingle => ?_⟩
      · rw [hdual] at hread
        exact ⟨_, load 1 (512 + n) (by decide) hword ha' hread, fun y hy => s.pic.pendingWord_bit n (fun x => x.target_dual s.cur) hy⟩
      · rw [hsingle] at hread
        exact load 1 (512 + n) (by decide) hword ha' hread

end Sys2Proof.Machine
end
